-- ==== Sys2Proof/Word.lean ====
section
/-! DEFINITION. The word types of QRC-CORE and the storage type of one grid plane. -/

namespace Sys2Proof

/-- A codeword or a field element: 8 bits (00_scope.md R29, R30). -/
abbrev Byte := BitVec 8

/-- A register, a command word or the data of a host access: 32 bits (00_scope.md R19, 10_state.md R51). -/
abbrev Word := BitVec 32

/-- A host byte address: 16 bits (00_scope.md R19). -/
abbrev HAddr := BitVec 16

end Sys2Proof
end

