-- ==== Sys2Proof/Config.lean ====
section
/-! DEFINITION. What an instance of QRC-CORE fixes (00_scope.md section 5), and the free values: constants without a
body, of which nothing can be proved. -/

namespace Sys2Proof

/-- `GRID_DIM`, the largest modules per edge (00_scope.md R14). -/
abbrev Config.gridDim : Nat := 177

/-- `BUF_SIZE`, the bytes of each codeword buffer (00_scope.md R15). The spec's value is taken (log 8). -/
abbrev Config.bufSize : Nat := 4096

/-- `N_ECC_MAX`, the largest ECC codeword count and generator degree (00_scope.md R16). The spec's value is taken (log 8). -/
abbrev Config.nEccMax : Nat := 30

/-- `ALN_MAX`, the alignment coordinate slots (00_scope.md R18). -/
abbrev Config.alnMax : Nat := 7

/-- `VER_MIN` (00_scope.md R13). -/
abbrev Config.verMin : Nat := 1

/-- `VER_MAX` (00_scope.md R13). -/
abbrev Config.verMax : Nat := 40

/-- One grid plane, `GRID_DIM × GRID_DIM` bits: row y is `rows[y]`, column x its bit x (10_state.md R86, R87). -/
structure Machine.Plane where
  rows : Vector (BitVec Config.gridDim) Config.gridDim
  deriving DecidableEq, Repr, Inhabited

/-- Free value: the byte a buffer address holds after the reset numbered `epoch`, until it is written
(10_state.md R90, 93_implementation_defined.md U3; log 1). -/
opaque Config.powerUpByte (epoch addr : Nat) : Byte

/-- Free value: plane V after the reset numbered `epoch` (10_state.md R86, R90; log 2). -/
opaque Config.powerUpV (epoch : Nat) : Machine.Plane

/-- Free value: plane P after the reset numbered `epoch` (10_state.md R87, R90; log 2). -/
opaque Config.powerUpP (epoch : Nat) : Machine.Plane

/-- Free value: the data of the `draw`-th unspecified read, a read of `addr` while BUSY (20_memory.md R172; log 6). -/
opaque Config.busyData (draw : Nat) (addr : HAddr) : Word

/-- Free value: the data of an access made while `rst` is asserted (70_reset_and_hazards.md R760; log 7). -/
opaque Config.rstData (draw : Nat) : Word

/-- Free value: whether an access made while `rst` is asserted answers ERR (70_reset_and_hazards.md R760; log 7). -/
opaque Config.rstAnswersErr (draw : Nat) : Bool

end Sys2Proof
end

