-- ==== Sys2Proof/Syntax.lean ====
section
/-! DEFINITION. The commands of QRC-CORE, one constructor per row of the opcode table (30_encoding.md R208). -/

namespace Sys2Proof

/-- A decoded command. Field elements are bytes; indexes, counts, coordinates and mask ids are unsigned integers
(00_scope.md R30), which `Instr.WellFormed` bounds by their 8-bit field. -/
inductive Instr where
  /-- 47_control.md R650. -/
  | nop
  /-- 40_gf.md R310: operands a and b. -/
  | gfMul (a b : Byte)
  /-- 40_gf.md R311: dividend a, divisor b. -/
  | gfDiv (a b : Byte)
  /-- 40_gf.md R312: exponent e. -/
  | gfExp (e : Nat)
  /-- 40_gf.md R313: argument a. -/
  | gfLog (a : Byte)
  /-- 41_rs.md R360: degree n. -/
  | rsGen (n : Nat)
  /-- 41_rs.md R361: number k of data codewords. -/
  | rsEnc (k : Nat)
  /-- 41_rs.md R362. -/
  | rsAll
  /-- 42_interleave.md R410. -/
  | ilv
  /-- 43_grid.md R441. -/
  | gridInit
  /-- 43_grid.md R442: column x, row y, value d (dark = true), force f. -/
  | gridWr (x y : Nat) (d f : Bool)
  /-- 43_grid.md R443: column x, row y. -/
  | gridRd (x y : Nat)
  /-- 43_grid.md R444: column x, row y. -/
  | gridRsv (x y : Nat)
  /-- 44_placement.md R510. -/
  | place
  /-- 45_mask.md R541: mask id m. -/
  | maskScore (m : Nat)
  /-- 45_mask.md R542: mask id m. -/
  | maskApply (m : Nat)
  /-- 45_mask.md R543. -/
  | maskAuto
  /-- 46_format.md R604: mask id m. -/
  | fmtEnc (m : Nat)
  /-- 46_format.md R605. -/
  | fmtWr
  /-- 46_format.md R612. -/
  | vinfoWr
  /-- 47_control.md R651. -/
  | run
  deriving DecidableEq, Repr

end Sys2Proof
end

