-- ==== Sys2Proof/WellFormed.lean ====
section
/-! DEFINITION. Which commands have an encoding: every operand fits its field (30_encoding.md R202 to R206; R213:
"An assembler refuses an operand that does not fit its field"). -/

namespace Sys2Proof

/-- The operand fits an 8-bit field, as every numeric operand of the table must (30_encoding.md R203 to R206). -/
abbrev fitsByte (v : Nat) : Bool := decide (v < 256)

/-- Every operand of the command fits the field of its format. -/
def Instr.wellFormed : Instr → Bool
  | .nop => true
  | .gfMul _ _ => true
  | .gfDiv _ _ => true
  | .gfExp e => fitsByte e
  | .gfLog _ => true
  | .rsGen n => fitsByte n
  | .rsEnc k => fitsByte k
  | .rsAll => true
  | .ilv => true
  | .gridInit => true
  | .gridWr x y _ _ => fitsByte x && fitsByte y
  | .gridRd x y => fitsByte x && fitsByte y
  | .gridRsv x y => fitsByte x && fitsByte y
  | .place => true
  | .maskScore m => fitsByte m
  | .maskApply m => fitsByte m
  | .maskAuto => true
  | .fmtEnc m => fitsByte m
  | .fmtWr => true
  | .vinfoWr => true
  | .run => true

/-- The check as a proposition. -/
abbrev Instr.WellFormed (i : Instr) : Prop := i.wellFormed = true

end Sys2Proof
end

