-- ==== Sys2Proof/Decode.lean ====
section
/-! DEFINITION. The command-word decoder (30_encoding.md R200 to R211), total on every word and rejecting by name, and
the encoder written from the same tables (R208, R213). -/

namespace Sys2Proof

/-- Why a command word selects no command (30_encoding.md R210); both raise ILLEGAL_CMD. -/
inductive Reject where
  /-- The opcode is not in the table of R208. -/
  | reservedOpcode
  /-- The opcode is listed and a bit its format reserves is not 0. -/
  | reservedField
  deriving DecidableEq, Repr

namespace Decode

/-- The field of `len` bits whose lowest bit is `lo`, as an unsigned integer (00_scope.md R21, 30_encoding.md R207). -/
def field (c : Word) (lo len : Nat) : Nat := (c.extractLsb' lo len).toNat

/-- The field of 8 bits whose lowest bit is `lo`, as a byte. -/
def byteField (c : Word) (lo : Nat) : Byte := c.extractLsb' lo 8

/-- Format Z: bits 23:0 must be 0 (30_encoding.md R201). -/
def formatZ (c : Word) (i : Instr) : Except Reject Instr :=
  if field c 0 24 = 0 then .ok i else .error .reservedField

/-- Format AB: bits 23:16 must be 0, a = c[15:8], b = c[7:0] (30_encoding.md R202). -/
def formatAB (c : Word) (i : Byte → Byte → Instr) : Except Reject Instr :=
  if field c 16 8 = 0 then .ok (i (byteField c 8) (byteField c 0)) else .error .reservedField

/-- Format B with a field element: bits 23:8 must be 0, operand c[7:0] (30_encoding.md R203). -/
def formatBElement (c : Word) (i : Byte → Instr) : Except Reject Instr :=
  if field c 8 16 = 0 then .ok (i (byteField c 0)) else .error .reservedField

/-- Formats B and M with an unsigned operand: bits 23:8 must be 0, operand c[7:0] (30_encoding.md R203, R204). -/
def formatB (c : Word) (i : Nat → Instr) : Except Reject Instr :=
  if field c 8 16 = 0 then .ok (i (field c 0 8)) else .error .reservedField

/-- Format XYW: bits 23:18 must be 0, f = c[17], d = c[16], y = c[15:8], x = c[7:0] (30_encoding.md R205). -/
def formatXYW (c : Word) (i : Nat → Nat → Bool → Bool → Instr) : Except Reject Instr :=
  if field c 18 6 = 0 then .ok (i (field c 0 8) (field c 8 8) (c.getLsbD 16) (c.getLsbD 17))
  else .error .reservedField

/-- Format XY: bits 23:16 must be 0, y = c[15:8], x = c[7:0] (30_encoding.md R206). -/
def formatXY (c : Word) (i : Nat → Nat → Instr) : Except Reject Instr :=
  if field c 16 8 = 0 then .ok (i (field c 0 8) (field c 8 8)) else .error .reservedField

end Decode

open Decode in
/-- The command a word selects (30_encoding.md R208, R209). -/
def decode (c : Word) : Except Reject Instr :=
  match field c 24 8 with
  | 0x00 => formatZ c .nop
  | 0x01 => formatAB c .gfMul
  | 0x02 => formatAB c .gfDiv
  | 0x03 => formatB c .gfExp
  | 0x04 => formatBElement c .gfLog
  | 0x10 => formatB c .rsGen
  | 0x11 => formatB c .rsEnc
  | 0x12 => formatZ c .rsAll
  | 0x20 => formatZ c .ilv
  | 0x30 => formatZ c .gridInit
  | 0x31 => formatXYW c .gridWr
  | 0x32 => formatXY c .gridRd
  | 0x33 => formatXY c .gridRsv
  | 0x40 => formatZ c .place
  | 0x50 => formatB c .maskScore
  | 0x51 => formatB c .maskApply
  | 0x52 => formatZ c .maskAuto
  | 0x60 => formatB c .fmtEnc
  | 0x61 => formatZ c .fmtWr
  | 0x62 => formatZ c .vinfoWr
  | 0x70 => formatZ c .run
  | _ => .error .reservedOpcode

/-- The instruction the decoder reads from an instruction whose bits are `w`, `nbits` of them as the opcode table numbers
them. A command is one 32-bit word (30_encoding.md R200), so the bits above `nbits` are 0 and no longer word exists. -/
def decodeTableWord (nbits w : Nat) : Option Instr :=
  if nbits ≤ 32 then
    match decode (BitVec.ofNat 32 (w % 2 ^ nbits)) with
    | .ok i => some i
    | .error _ => none
  else none

namespace Encode

/-- A word of format Z: `OPC << 24` (30_encoding.md R213). -/
def formatZ (opc : Nat) : Word := BitVec.ofNat 32 (opc * 2 ^ 24)

/-- A word of format AB: `OPC << 24 | a << 8 | b`. -/
def formatAB (opc : Nat) (a b : Byte) : Word := BitVec.ofNat 32 (opc * 2 ^ 24 + a.toNat * 2 ^ 8 + b.toNat)

/-- A word of format B or M: `OPC << 24 | v`. -/
def formatB (opc v : Nat) : Word := BitVec.ofNat 32 (opc * 2 ^ 24 + v)

/-- A word of format XYW: `0x31 << 24 | f << 17 | d << 16 | y << 8 | x`. -/
def formatXYW (opc x y : Nat) (d f : Bool) : Word :=
  BitVec.ofNat 32 (opc * 2 ^ 24 + f.toNat * 2 ^ 17 + d.toNat * 2 ^ 16 + y * 2 ^ 8 + x)

/-- A word of format XY: `OPC << 24 | y << 8 | x`. -/
def formatXY (opc x y : Nat) : Word := BitVec.ofNat 32 (opc * 2 ^ 24 + y * 2 ^ 8 + x)

end Encode

open Encode in
/-- The word of a well-formed command (30_encoding.md R208, R213). The fields of a format do not overlap, so the `|` of
R213 is addition. -/
def encode : Instr → Word
  | .nop => formatZ 0x00
  | .gfMul a b => formatAB 0x01 a b
  | .gfDiv a b => formatAB 0x02 a b
  | .gfExp e => formatB 0x03 e
  | .gfLog a => formatB 0x04 a.toNat
  | .rsGen n => formatB 0x10 n
  | .rsEnc k => formatB 0x11 k
  | .rsAll => formatZ 0x12
  | .ilv => formatZ 0x20
  | .gridInit => formatZ 0x30
  | .gridWr x y d f => formatXYW 0x31 x y d f
  | .gridRd x y => formatXY 0x32 x y
  | .gridRsv x y => formatXY 0x33 x y
  | .place => formatZ 0x40
  | .maskScore m => formatB 0x50 m
  | .maskApply m => formatB 0x51 m
  | .maskAuto => formatZ 0x52
  | .fmtEnc m => formatB 0x60 m
  | .fmtWr => formatZ 0x61
  | .vinfoWr => formatZ 0x62
  | .run => formatZ 0x70

end Sys2Proof
end

