-- ==== Sys2Proof/Machine/State.lean ====
section
/-! DEFINITION. The state of QRC-CORE (10_state.md), its value after reset, and the reasons a step could stop. -/

namespace Sys2Proof.Machine

/-- No step of this hardware stops the machine: an error is the outcome of one command, reported in STATUS when it
completes, and "transfers no control" (60_exceptions.md R713). So this type has no constructor (log 11). -/
inductive Fault
  deriving DecidableEq, Repr

/-- The reasons the model has no meaning for an instruction. -/
inductive Refusal where
  /-- Raised by an arm of `exec` whose instruction has no meaning yet; no arm is left so. Safe: the machine goes on where
  the model stops. -/
  | notModelled (mnemonic : String)
  deriving DecidableEq, Repr

/-- The errors a command can raise (60_exceptions.md R700). -/
inductive ErrorCode where
  | illegalCmd
  | divZero
  | logZero
  | invalidConfig
  | noGen
  | badRange
  | noGrid
  | badCoord
  | lenMismatch
  | seq
  deriving DecidableEq, Repr

/-- The engine (10_state.md R81): idle, or busy with the command word latched at acceptance. -/
inductive Engine where
  | idle
  | busy (c : Word)
  deriving DecidableEq, Repr

/-- `CTRL` (10_state.md R53). -/
structure Ctrl where
  ie : Bool
  alnMode : Bool
  patMode : Bool
  balMode : Bool
  deriving DecidableEq, Repr

/-- The configuration registers, which only the host writes: `CTRL`, `VERSION`, `ECCL`, `PROF0`, `PROF1`, `NECC`, `ALN_CNT`,
`ALN_POS0` and `ALN_POS1`, `VINFO`, `RS_SRC`, `RS_DST` (10_state.md R53, R57 to R67). Reserved bits are not stored:
they read as 0 and writes to them are ignored (R51). -/
structure CfgRegs where
  ctrl : Ctrl
  version : BitVec 6
  eccl : BitVec 2
  g0Blocks : Byte
  g0Dcw : Byte
  g1Blocks : Byte
  g1Dcw : Byte
  necc : Byte
  alnCnt : BitVec 3
  aln : Vector Byte Config.alnMax
  vinfo : BitVec 18
  rsSrc : BitVec 12
  rsDst : BitVec 12
  deriving DecidableEq, Repr

/-- The stored fields of `STATUS` (10_state.md R54); `BUSY` is the engine's state (R81). -/
structure Status where
  done : Bool
  err : Bool
  gv : Bool
  masked : Bool
  werr : Bool
  errcode : BitVec 4
  deriving DecidableEq, Repr

/-- `GRIDINFO` (10_state.md R72). -/
structure GridInfo where
  size : Byte
  gver : BitVec 6
  deriving DecidableEq, Repr

/-- `PEN1` to `PEN4` (10_state.md R75 to R78). -/
structure Pens where
  pen1 : Word
  pen2 : Word
  pen3 : Word
  pen4 : Word
  deriving DecidableEq, Repr

/-- The three codeword buffers (10_state.md R82 to R84). -/
inductive Buffer where
  | dbuf
  | ebuf
  | ibuf
  deriving DecidableEq, Repr

/-- The written bytes of the three buffers, keyed by the host address of each byte (20_memory.md R155): addresses strictly
rising. An address that is not listed is unwritten since reset (10_state.md R90; log 1). -/
abbrev Memory := List Host.Cell

/-- The response of a host access (20_memory.md R151). -/
inductive Resp where
  | ok
  | err
  deriving DecidableEq, Repr

/-- What `h_ack` delivers: read data and response, or the response of a write (20_memory.md R150, R151). -/
inductive Answer where
  | read (data : Word) (resp : Resp)
  | wrote (resp : Resp)
  deriving DecidableEq, Repr

/-- What the outside world can do to the core, one atomic event each (20_memory.md R151, R173), and the engine's turn. -/
inductive Input where
  /-- `HostRead(addr)`. -/
  | read (addr : HAddr)
  /-- `HostWrite(addr, data)`. -/
  | write (addr : HAddr) (data : Word)
  /-- The engine's turn: a busy engine completes its command (60_exceptions.md R711). -/
  | engine
  /-- The `rst` pin is driven to a level (70_reset_and_hazards.md R760). -/
  | rst (asserted : Bool)
  deriving DecidableEq, Repr

/-- The state of QRC-CORE (10_state.md R50), and with it the ports of 20_memory.md R150 and the model's two counters for
free values. -/
structure State where
  /-- The configuration registers. -/
  cfg : CfgRegs
  /-- `STATUS` but for BUSY. -/
  status : Status
  /-- The engine; `STATUS.BUSY` is 1 exactly when it is busy. -/
  engine : Engine
  /-- `CMD` read-back, R55. -/
  cmd : Word
  /-- `RESULT`, R56. -/
  result : Word
  /-- `GEN_DEG`, R68. -/
  genDeg : Byte
  /-- `CW_COUNT`, R69. -/
  cwCount : BitVec 13
  /-- `PLACED`, R70. -/
  placed : BitVec 16
  /-- `REMBITS`, R71. -/
  remBits : BitVec 16
  /-- `GRIDINFO`, R72. -/
  gridInfo : GridInfo
  /-- `FMT`, R73. -/
  fmt : BitVec 15
  /-- `MASK_ID`, R74. -/
  maskId : BitVec 3
  /-- `PEN1` to `PEN4`, R75 to R78. -/
  pens : Pens
  /-- `SCORE0` to `SCORE7`, R79. -/
  scores : Vector Word 8
  /-- `GEN`, R85. -/
  gen : Vector Byte (Config.nEccMax + 1)
  /-- `DBUF`, `EBUF` and `IBUF`, R82 to R84. -/
  mem : Memory
  /-- Plane `V`, R86. -/
  v : Plane
  /-- Plane `P`, R87. -/
  p : Plane
  /-- The level of the `rst` pin. -/
  rst : Bool
  /-- The events to come, oldest first. -/
  inputs : List Input
  /-- The response to the access the last step took, if it took one. -/
  answer : Option Answer
  /-- Which reset the unspecified contents were drawn at. -/
  epoch : Nat
  /-- How many unspecified reads have been answered. -/
  draws : Nat
  deriving DecidableEq, Repr

/-- The state after the reset numbered `epoch` (70_reset_and_hazards.md R760): every register at its reset value, the
engine idle, GEN 0, nothing written to the buffers, the planes unspecified. -/
def State.afterReset (epoch : Nat) : State where
  cfg :=
    { ctrl := ⟨false, false, false, false⟩, version := 0, eccl := 0, g0Blocks := 0, g0Dcw := 0, g1Blocks := 0,
      g1Dcw := 0, necc := 0, alnCnt := 0, aln := Vector.replicate _ 0, vinfo := 0, rsSrc := 0, rsDst := 0 }
  status := ⟨false, false, false, false, false, 0⟩
  engine := .idle
  cmd := 0
  result := 0
  genDeg := 0
  cwCount := 0
  placed := 0
  remBits := 0
  gridInfo := ⟨0, 0⟩
  fmt := 0
  maskId := 0
  pens := ⟨0, 0, 0, 0⟩
  scores := Vector.replicate _ 0
  gen := Vector.replicate _ 0
  mem := []
  v := Config.powerUpV epoch
  p := Config.powerUpP epoch
  rst := false
  inputs := []
  answer := none
  epoch := epoch
  draws := 0

/-- The machine right after reset, with no host access pending (70_reset_and_hazards.md R760, R761). -/
def State.reset : State := State.afterReset 0

end Sys2Proof.Machine
end

