-- ==== Sys2Proof/Machine/Ops.lean ====
section
/-! DEFINITION. The named operations over buffers, planes and the engine: buffer memory, plane cells, accepting a command
and completing it with or without an error. -/

namespace Sys2Proof.Machine

/-! ### Buffer memory -/

/-- The byte written at an address, if one was written since reset. -/
def Memory.lookup : Memory → Nat → Option Byte
  | [], _ => none
  | (a, b) :: m, addr => if addr = a then some b else Memory.lookup m addr

/-- Write one byte, keeping the addresses strictly rising. -/
def Memory.write : Memory → Nat → Byte → Memory
  | [], addr, b => [(addr, b)]
  | (a, c) :: m, addr, b =>
    if addr < a then (addr, b) :: (a, c) :: m
    else if addr = a then (addr, b) :: m
    else (a, c) :: Memory.write m addr b

/-- Write consecutive bytes from an address on. -/
def Memory.writeBytes : Memory → Nat → List Byte → Memory
  | m, _, [] => m
  | m, addr, b :: bs => Memory.writeBytes (m.write addr b) (addr + 1) bs

/-- The canonical form: addresses strictly rising and inside the three buffer windows (20_memory.md R152). -/
def Memory.wf (m : Memory) : Bool :=
  decide (m.Pairwise fun a b => a.1 < b.1) && m.all fun c => decide (0x1000 ≤ c.1) && decide (c.1 < 0x4000)

/-- What an address that is not listed reads as: the free draw of the last reset (10_state.md R90; log 1). -/
def unwrittenByte (epoch addr : Nat) : Byte := Config.powerUpByte epoch addr

/-- The byte at a host address of the buffer windows. -/
def byteAt (s : State) (addr : Nat) : Byte := (s.mem.lookup addr).getD (unwrittenByte s.epoch addr)

/-- The host address of byte 0 of a buffer's window (20_memory.md R155). -/
def Buffer.base : Buffer → Nat
  | .dbuf => 0x1000
  | .ebuf => 0x2000
  | .ibuf => 0x3000

/-- `MemRead(B, i, 1)` (00_scope.md R23). -/
def bufByte (s : State) (buf : Buffer) (i : Nat) : Byte := byteAt s (buf.base + i)

/-- `B[off], …, B[off + n − 1]`. -/
def bufBytes (s : State) (buf : Buffer) (off n : Nat) : List Byte := (List.range n).map fun j => bufByte s buf (off + j)

/-- `MemWrite(B, off + j, 1, bytes[j])` for every j (00_scope.md R23). -/
def writeBuf (m : Memory) (buf : Buffer) (off : Nat) (bytes : List Byte) : Memory := m.writeBytes (buf.base + off) bytes

/-! ### Grid planes -/

/-- `n` bits, bit x being `f x`. -/
def bitsOf (f : Nat → Bool) : (n : Nat) → BitVec n
  | 0 => BitVec.nil
  | n + 1 => BitVec.cons (f n) (bitsOf f n)

/-- A row with bit `x` set to `b`. -/
def setBit {n : Nat} (row : BitVec n) (x : Nat) (b : Bool) : BitVec n :=
  if b then row ||| BitVec.twoPow n x else row &&& ~~~(BitVec.twoPow n x)

/-- The cell at column x, row y (00_scope.md R24); false outside the plane (log 12). -/
def Plane.get (p : Plane) (x y : Nat) : Bool :=
  if h : y < Config.gridDim then (p.rows[y]).getLsbD x else false

/-- `plane(x, y) <- b` (00_scope.md R24); nothing outside the plane (log 12). -/
def Plane.set (p : Plane) (x y : Nat) (b : Bool) : Plane :=
  if h : y < Config.gridDim then ⟨p.rows.set y (setBit p.rows[y] x b)⟩ else p

/-- The plane whose cell (x, y) is `f x y`. -/
def Plane.ofFn (f : Nat → Nat → Bool) : Plane :=
  ⟨Vector.ofFn fun y => bitsOf (fun x => f x y.val) Config.gridDim⟩

/-- Every cell 0. -/
def Plane.blank : Plane := ⟨Vector.replicate _ 0⟩

/-- Set each listed cell to a value, in order. -/
def Plane.setAll (p : Plane) (cells : List (Nat × Nat × Bool)) : Plane :=
  cells.foldl (fun q c => q.set c.1 c.2.1 c.2.2) p

/-- The cells (x, y) with x, y < size, row by row. -/
def squareCells (size : Nat) : List (Nat × Nat) :=
  (List.range size).flatMap fun y => (List.range size).map fun x => (x, y)

/-! ### The command handshake -/

/-- The code of an error in `STATUS.ERRCODE` (60_exceptions.md R700). -/
def ErrorCode.code : ErrorCode → BitVec 4
  | .illegalCmd => 1
  | .divZero => 2
  | .logZero => 3
  | .invalidConfig => 4
  | .noGen => 5
  | .badRange => 6
  | .noGrid => 7
  | .badCoord => 8
  | .lenMismatch => 9
  | .seq => 10

/-- `STATUS.BUSY` (10_state.md R81). -/
def Engine.isBusy : Engine → Bool
  | .idle => false
  | .busy _ => true

/-- Acceptance of a command word by an idle engine (60_exceptions.md R710). -/
def accept (c : Word) (s : State) : State :=
  { s with
    cmd := c
    status := { s.status with done := false, err := false, errcode := 0 }
    engine := .busy c }

/-- `STATUS` at completion, with the error the command raised or none (60_exceptions.md R711). -/
def Status.completed (st : Status) : Option ErrorCode → Status
  | none => { st with done := true, err := false, errcode := 0 }
  | some e => { st with done := true, err := true, errcode := e.code }

/-- Completion of the command in flight: how every error is reported, and the only way the engine leaves BUSY but for
reset (60_exceptions.md R711; no trap is taken, R713, and there is nothing to return from, R712). -/
def complete (e : Option ErrorCode) (s : State) : State :=
  { s with status := s.status.completed e, engine := .idle }

/-- Completion of a command from its effect: every effect applied, or, if it raised an error, none (60_exceptions.md R701,
R711). -/
def conclude (s : State) : Except ErrorCode State → Host.Outcome State Fault Refusal
  | .ok t => .next (complete none t)
  | .error e => .next (complete (some e) s)

end Sys2Proof.Machine
end

