-- ==== Sys2Proof/Machine/Operands.lean ====
section
/-! DEFINITION. What the commands read beside their word: the profile, the alignment list, the grid's size, and the checks
that several commands share. -/

namespace Sys2Proof.Machine

/-! ### The profile (41_rs.md R350, R351) -/

/-- `TB`, the total number of blocks. -/
def totalBlocks (c : CfgRegs) : Nat := c.g0Blocks.toNat + c.g1Blocks.toNat

/-- `k(b)`, the data codewords of block b. -/
def blockLen (c : CfgRegs) (b : Nat) : Nat := if b < c.g0Blocks.toNat then c.g0Dcw.toNat else c.g1Dcw.toNat

/-- `doff(b)`, the first byte of block b in DBUF. -/
def dataOffset (c : CfgRegs) (b : Nat) : Nat := ((List.range b).map (blockLen c)).sum

/-- `eoff(b)`, the first byte of block b in EBUF. -/
def eccOffset (c : CfgRegs) (b : Nat) : Nat := b * c.necc.toNat

/-- `TD`, the total data codewords. -/
def totalData (c : CfgRegs) : Nat :=
  c.g0Blocks.toNat * c.g0Dcw.toNat + c.g1Blocks.toNat * c.g1Dcw.toNat

/-- `TE`, the total ECC codewords. -/
def totalEcc (c : CfgRegs) : Nat := totalBlocks c * c.necc.toNat

/-- `ProfileOK` (41_rs.md R351). -/
abbrev profileOk (c : CfgRegs) : Prop :=
  1 ≤ c.g0Blocks.toNat ∧ 1 ≤ c.g0Dcw.toNat ∧ (c.g1Blocks.toNat = 0 ∨ 1 ≤ c.g1Dcw.toNat) ∧
    1 ≤ c.necc.toNat ∧ c.necc.toNat ≤ Config.nEccMax ∧ totalData c + totalEcc c ≤ Config.bufSize

/-! ### The grid's geometry and the shared checks -/

/-- `GRIDINFO.SIZE`, the S of every grid command (10_state.md R72). -/
def gridSize (s : State) : Nat := s.gridInfo.size.toNat

/-- The host-supplied coordinates `A0 .. A(ALN_CNT − 1)` (43_grid.md R435). -/
def alnCoords (c : CfgRegs) : List Nat := (c.aln.toList.take c.alnCnt.toNat).map BitVec.toNat

/-- The check of the commands that need a grid (10_state.md R88): NO_GRID while `STATUS.GV = 0`. -/
def withGrid (s : State) (effect : Except ErrorCode State) : Except ErrorCode State :=
  if s.status.gv then effect else .error .noGrid

/-- The check of the commands that need an unmasked grid (45_mask.md R541): SEQ while `STATUS.MASKED = 1`. -/
def withUnmasked (s : State) (effect : Except ErrorCode State) : Except ErrorCode State :=
  if s.status.masked then .error .seq else effect

/-- The check of the commands that take a coordinate (43_grid.md R442 to R444): NO_GRID, then BAD_COORD. -/
def withCell (s : State) (x y : Nat) (effect : Except ErrorCode State) : Except ErrorCode State :=
  withGrid s (if gridSize s ≤ x ∨ gridSize s ≤ y then .error .badCoord else effect)

/-- The check of the commands that take a mask id (30_encoding.md R211): INVALID_CONFIG for m ≥ 8. -/
def withMaskId (m : Nat) (effect : Except ErrorCode State) : Except ErrorCode State :=
  if 8 ≤ m then .error .invalidConfig else effect

/-- A computed field element or flag word in the 32 bits of `RESULT` (10_state.md R56). -/
def toResult {n : Nat} (v : BitVec n) : Word := v.setWidth 32

end Sys2Proof.Machine
end

