-- ==== Sys2Proof/Machine/Interleave.lean ====
section
/-! DEFINITION. The codeword interleaver (42_interleave.md): the sequence, and the command ILV. -/

namespace Sys2Proof.Machine

/-- `KMAX`, the most data codewords any block has (42_interleave.md R400). -/
def maxBlockLen (c : CfgRegs) : Nat := ((List.range (totalBlocks c)).map (blockLen c)).foldl max 0

/-- Round i of the data codewords: one from every block that has an i-th (42_interleave.md R400). -/
def dataRound (s : State) (i : Nat) : List Byte :=
  ((List.range (totalBlocks s.cfg)).filter fun b => i < blockLen s.cfg b).map fun b =>
    bufByte s .dbuf (dataOffset s.cfg b + i)

/-- Round i of the ECC codewords: one from every block (42_interleave.md R400). -/
def eccRound (s : State) (i : Nat) : List Byte :=
  (List.range (totalBlocks s.cfg)).map fun b => bufByte s .ebuf (eccOffset s.cfg b + i)

/-- The sequence `ilv` (42_interleave.md R400). -/
def interleaved (s : State) : List Byte :=
  (List.range (maxBlockLen s.cfg)).flatMap (dataRound s) ++ (List.range s.cfg.necc.toNat).flatMap (eccRound s)

/-- ILV (42_interleave.md R410). -/
def effIlv (s : State) : Except ErrorCode State :=
  if profileOk s.cfg then
    .ok { s with
      mem := writeBuf s.mem .ibuf 0 (interleaved s)
      cwCount := BitVec.ofNat 13 (totalData s.cfg + totalEcc s.cfg) }
  else .error .invalidConfig

/-- ILV, run and completed. -/
def execIlv (s : State) : Host.Outcome State Fault Refusal := conclude s (effIlv s)

end Sys2Proof.Machine
end

