-- ==== Sys2Proof/Machine/Grid.lean ====
section
/-! DEFINITION. The symbol grid (43_grid.md): the function patterns, the guarded write, and the commands GRID_INIT, GRID_WR,
GRID_RD and GRID_RSV. -/

namespace Sys2Proof.Machine

/-- The two planes while a grid is built. -/
structure Grid where
  v : Plane
  p : Plane
  deriving DecidableEq, Repr

/-- Write each listed cell and protect it. -/
def Grid.stamp (g : Grid) (cells : List (Nat × Nat × Bool)) : Grid :=
  cells.foldl (fun g c => ⟨g.v.set c.1 c.2.1 c.2.2, g.p.set c.1 c.2.1 true⟩) g

/-- Protect each listed cell without writing it. -/
def Grid.reserve (g : Grid) (cells : List (Nat × Nat)) : Grid :=
  { g with p := cells.foldl (fun p c => p.set c.1 c.2 true) g.p }

/-- `|a − b|` (00_scope.md R25). -/
def dist (a b : Nat) : Nat := (a - b) + (b - a)

/-- `modules_per_edge` of a version (43_grid.md R430). -/
def sizeOfVersion (v : Nat) : Nat := 17 + 4 * v

/-! ### Patterns -/

/-- The value at offset (i − 1, j − 1) from a finder's top-left cell, i and j in 0..8: rings inside 7×7, the light separator
around it (43_grid.md R431). -/
def finderValue (i j : Nat) : Bool :=
  if 1 ≤ i ∧ i ≤ 7 ∧ 1 ≤ j ∧ j ≤ 7 then decide (max (dist i 4) (dist j 4) ≠ 2) else false

/-- The cells of the finder at (fx, fy) with its separator, those that lie in the grid (43_grid.md R431). -/
def finderCells (size fx fy : Nat) : List (Nat × Nat × Bool) :=
  (List.range 9).flatMap fun j => (List.range 9).filterMap fun i =>
    if 1 ≤ fx + i ∧ fx + i ≤ size ∧ 1 ≤ fy + j ∧ fy + j ≤ size then some (fx + i - 1, fy + j - 1, finderValue i j)
    else none

/-- The top-left cells of the three finders (43_grid.md R431). -/
def finderCorners (size : Nat) : List (Nat × Nat) := [(0, 0), (size - 7, 0), (0, size - 7)]

/-- The cells of all three finders. -/
def allFinderCells (size : Nat) : List (Nat × Nat × Bool) :=
  (finderCorners size).flatMap fun c => finderCells size c.1 c.2

/-- The timing cells of row 6 and column 6, i in 8..S−9 (43_grid.md R432). -/
def timingCells (size : Nat) : List (Nat × Nat × Bool) :=
  (List.range' 8 (size - 16)).flatMap fun i => [(i, 6, i % 2 == 0), (6, i, i % 2 == 0)]

/-- The dark module (43_grid.md R433). -/
def darkModule (size : Nat) : List (Nat × Nat × Bool) := [(8, size - 8, true)]

/-- The 25 cells of the alignment pattern centred at (cx, cy), both at least 2 (43_grid.md R434). -/
def alignmentCells (cx cy : Nat) : List (Nat × Nat × Bool) :=
  (List.range 5).flatMap fun j => (List.range 5).map fun i =>
    (cx + i - 2, cy + j - 2, decide (max (dist i 2) (dist j 2) ≠ 1))

/-- The cell lies in one of the three 8×8 finder regions (43_grid.md R431, R436). -/
def inFinderRegion (size x y : Nat) : Bool :=
  (decide (x < 8) && decide (y < 8)) || (decide (size - 8 ≤ x) && decide (y < 8)) ||
    (decide (x < 8) && decide (size - 8 ≤ y))

/-- The skip rule of an alignment centre, selected by `CTRL.ALNMODE` (43_grid.md R436). -/
def skipCentre (alnMode : Bool) (size : Nat) (g : Grid) (cx cy : Nat) : Bool :=
  if alnMode then inFinderRegion size cx cy else g.p.get cx cy

/-- Consider one centre: skip it, or place its pattern (43_grid.md R434, R436). -/
def alignAt (alnMode : Bool) (size : Nat) (g : Grid) (c : Nat × Nat) : Grid :=
  if skipCentre alnMode size g c.1 c.2 then g else g.stamp (alignmentCells c.1 c.2)

/-- The candidate centres in order: cy the outer loop, cx the inner (43_grid.md R435). -/
def alignmentCentres (coords : List Nat) : List (Nat × Nat) :=
  coords.flatMap fun cy => coords.map fun cx => (cx, cy)

/-- The format-information reservation (43_grid.md R437). -/
def formatReserve (size : Nat) : List (Nat × Nat) :=
  ((List.range 9).flatMap fun i => [(i, 8), (8, i)]) ++ ((List.range 8).map fun i => (size - 1 - i, 8)) ++
    ((List.range 7).map fun i => (8, size - 1 - i))

/-- The two cells of version bit i: in the top-right and in the bottom-left block (43_grid.md R438, 46_format.md R610). -/
def versionCell (size i : Nat) : List (Nat × Nat) :=
  let a := size - 11 + i % 3
  let b := i / 3
  [(a, b), (b, a)]

/-- The version-information reservation (43_grid.md R438). -/
def versionReserve (size : Nat) : List (Nat × Nat) := (List.range 18).flatMap (versionCell size)

/-- The fresh grid of version v, in the construction order of GRID_INIT (43_grid.md R441). -/
def freshGrid (v : Nat) (alnMode : Bool) (coords : List Nat) : Grid :=
  let size := sizeOfVersion v
  let g : Grid := ⟨Plane.blank, Plane.blank⟩
  let g := g.stamp (allFinderCells size)
  let g := g.stamp (timingCells size)
  let g := g.stamp (darkModule size)
  let g := if 2 ≤ v then (alignmentCentres coords).foldl (alignAt alnMode size) g else g
  let g := g.reserve (formatReserve size)
  if 7 ≤ v then g.reserve (versionReserve size) else g

/-- `grid_write(x, y, d, f)`: whether the cell was written, and plane V after it (43_grid.md R440). -/
def gridWrite (v p : Plane) (x y : Nat) (d f : Bool) : Bool × Plane :=
  if p.get x y && !f then (false, v) else (true, v.set x y d)

/-! ### The commands -/

/-- The alignment check of GRID_INIT: every coordinate in 2..S−3 (43_grid.md R435, R441). -/
abbrev alnCoordsOk (size : Nat) (coords : List Nat) : Prop := ∀ a ∈ coords, 2 ≤ a ∧ a ≤ size - 3

/-- GRID_INIT (43_grid.md R441). -/
def effGridInit (s : State) : Except ErrorCode State :=
  let v := s.cfg.version.toNat
  let size := sizeOfVersion v
  let coords := alnCoords s.cfg
  if v < Config.verMin ∨ Config.verMax < v then .error .invalidConfig
  else if 2 ≤ v ∧ ¬ alnCoordsOk size coords then .error .invalidConfig
  else
    let g := freshGrid v s.cfg.ctrl.alnMode coords
    .ok { s with
      v := g.v
      p := g.p
      gridInfo := ⟨BitVec.ofNat 8 size, BitVec.ofNat 6 v⟩
      status := { s.status with gv := true, masked := false } }

/-- GRID_INIT, run and completed. -/
def execGridInit (s : State) : Host.Outcome State Fault Refusal := conclude s (effGridInit s)

/-- GRID_WR (43_grid.md R442). -/
def effGridWr (x y : Nat) (d f : Bool) (s : State) : Except ErrorCode State :=
  withCell s x y <|
    let w := gridWrite s.v s.p x y d f
    .ok { s with v := w.2, result := toResult (BitVec.ofBool w.1) }

/-- GRID_WR, run and completed. -/
def execGridWr (x y : Nat) (d f : Bool) (s : State) : Host.Outcome State Fault Refusal :=
  conclude s (effGridWr x y d f s)

/-- GRID_RD (43_grid.md R443). -/
def effGridRd (x y : Nat) (s : State) : Except ErrorCode State :=
  withCell s x y (.ok { s with result := toResult (BitVec.ofBool (s.p.get x y) ++ BitVec.ofBool (s.v.get x y)) })

/-- GRID_RD, run and completed. -/
def execGridRd (x y : Nat) (s : State) : Host.Outcome State Fault Refusal := conclude s (effGridRd x y s)

/-- GRID_RSV (43_grid.md R444). -/
def effGridRsv (x y : Nat) (s : State) : Except ErrorCode State :=
  withCell s x y (.ok { s with p := s.p.set x y true })

/-- GRID_RSV, run and completed. -/
def execGridRsv (x y : Nat) (s : State) : Host.Outcome State Fault Refusal := conclude s (effGridRsv x y s)

end Sys2Proof.Machine
end

