-- ==== Sys2Proof/Machine/Format.lean ====
section
/-! DEFINITION. Format and version information (46_format.md): the BCH format word, the cell maps, and the commands FMT_ENC,
FMT_WR and VINFO_WR. -/

namespace Sys2Proof.Machine

/-- One step of the BCH reduction, at bit k in 14..10 (46_format.md R600). -/
def bchStep (r : BitVec 15) (k : Nat) : BitVec 15 := if r.getLsbD k then r ^^^ (0x537#15 <<< (k - 10)) else r

/-- The BCH reduction: bits 14 down to 10 (46_format.md R600). -/
def bchReduce (r : BitVec 15) : BitVec 15 := [14, 13, 12, 11, 10].foldl bchStep r

/-- `fmt(e, m)` (46_format.md R600). -/
def fmtWord (e : BitVec 2) (m : BitVec 3) : BitVec 15 :=
  let data : BitVec 15 := e ++ m ++ 0#10
  (data ||| bchReduce data) ^^^ 0x5412#15

/-- The cell of format bit i in copy 1, around the top-left finder (46_format.md R603). -/
def formatCell1 (i : Nat) : Nat × Nat :=
  if i ≤ 5 then (8, i) else if i = 6 then (8, 7) else if i = 7 then (8, 8) else if i = 8 then (7, 8) else (14 - i, 8)

/-- The cell of format bit i in copy 2, beside the other two finders (46_format.md R603). -/
def formatCell2 (size i : Nat) : Nat × Nat := if i ≤ 7 then (size - 1 - i, 8) else (8, size - 15 + i)

/-- The cells that take a format word, each with its bit (46_format.md R603). -/
def formatWrites (size : Nat) (f : BitVec 15) : List (Nat × Nat × Bool) :=
  ((List.range 15).map fun i => ((formatCell1 i).1, (formatCell1 i).2, f.getLsbD i)) ++
    ((List.range 15).map fun i => ((formatCell2 size i).1, (formatCell2 size i).2, f.getLsbD i))

/-- The cells that take a version word, each with its bit (46_format.md R610). -/
def versionWrites (size : Nat) (w : BitVec 18) : List (Nat × Nat × Bool) :=
  (List.range 18).flatMap fun i => (versionCell size i).map fun c => (c.1, c.2, w.getLsbD i)

/-! ### The commands -/

/-- FMT_ENC (46_format.md R604). -/
def effFmtEnc (m : Nat) (s : State) : Except ErrorCode State :=
  withMaskId m (.ok { s with fmt := fmtWord s.cfg.eccl (BitVec.ofNat 3 m) })

/-- FMT_ENC, run and completed. -/
def execFmtEnc (m : Nat) (s : State) : Host.Outcome State Fault Refusal := conclude s (effFmtEnc m s)

/-- FMT_WR (46_format.md R605). -/
def effFmtWr (s : State) : Except ErrorCode State :=
  withGrid s (.ok { s with v := s.v.setAll (formatWrites (gridSize s) s.fmt) })

/-- FMT_WR, run and completed. -/
def execFmtWr (s : State) : Host.Outcome State Fault Refusal := conclude s (effFmtWr s)

/-- VINFO_WR (46_format.md R612). -/
def effVinfoWr (s : State) : Except ErrorCode State :=
  withGrid s <|
    if s.gridInfo.gver.toNat < 7 then .error .invalidConfig
    else .ok { s with v := s.v.setAll (versionWrites (gridSize s) s.cfg.vinfo) }

/-- VINFO_WR, run and completed. -/
def execVinfoWr (s : State) : Host.Outcome State Fault Refusal := conclude s (effVinfoWr s)

end Sys2Proof.Machine
end

