-- ==== Sys2Proof/Machine/Mask.lean ====
section
/-! DEFINITION. The masking engine (45_mask.md): the predicates, the candidate grid, the four penalties, and the commands
MASK_SCORE, MASK_APPLY and MASK_AUTO. -/

namespace Sys2Proof.Machine

/-- `pred(m, r, c)` for m in 0..7 (45_mask.md R530); the last case is m = 7. -/
def maskPred (m r c : Nat) : Bool :=
  match m with
  | 0 => (r + c) % 2 == 0
  | 1 => r % 2 == 0
  | 2 => c % 3 == 0
  | 3 => (r + c) % 3 == 0
  | 4 => (r / 2 + c / 3) % 2 == 0
  | 5 => r * c % 2 + r * c % 3 == 0
  | 6 => (r * c % 2 + r * c % 3) % 2 == 0
  | _ => ((r + c) % 2 + r * c % 3) % 2 == 0

/-- Plane V with every unprotected cell of the symbol inverted where the predicate holds (45_mask.md R531). -/
def masked (size m : Nat) (v p : Plane) : Plane :=
  Plane.ofFn fun x y =>
    if x < size ∧ y < size ∧ p.get x y = false ∧ maskPred m y x = true then !v.get x y else v.get x y

/-- `cand(m)`, the candidate grid of mask m (45_mask.md R531). -/
def candidate (s : State) (m : Nat) : Plane :=
  (masked (gridSize s) m s.v s.p).setAll (formatWrites (gridSize s) (fmtWord s.cfg.eccl (BitVec.ofNat 3 m)))

/-! ### Penalties -/

/-- Row y of the symbol. -/
def rowLine (w : Plane) (size y : Nat) : List Bool := (List.range size).map fun x => w.get x y

/-- Column x of the symbol. -/
def colLine (w : Plane) (size x : Nat) : List Bool := (List.range size).map fun y => w.get x y

/-- The 2S lines of the symbol (45_mask.md section 2). -/
def gridLines (w : Plane) (size : Nat) : List (List Bool) :=
  (List.range size).map (rowLine w size) ++ (List.range size).map (colLine w size)

/-- The lengths of the maximal runs of equal values of a line whose current run has value b and length n so far. -/
def runsFrom (b : Bool) (n : Nat) : List Bool → List Nat
  | [] => [n]
  | c :: cs => if c = b then runsFrom b (n + 1) cs else n :: runsFrom c 1 cs

/-- The lengths of the maximal runs of equal values of a line, in order (45_mask.md R532). -/
def runs : List Bool → List Nat
  | [] => []
  | b :: bs => runsFrom b 1 bs

/-- A run of length L ≥ 5 adds L − 2 (45_mask.md R532). -/
def runPenalty (len : Nat) : Nat := if 5 ≤ len then len - 2 else 0

/-- `N1` (45_mask.md R532). -/
def penaltyRuns (w : Plane) (size : Nat) : Nat :=
  ((gridLines w size).map fun line => ((runs line).map runPenalty).sum).sum

/-- The 2×2 window at (x, y) has one colour (45_mask.md R533). -/
def blockAt (w : Plane) (x y : Nat) : Bool :=
  w.get x y == w.get (x + 1) y && w.get x y == w.get x (y + 1) && w.get x y == w.get (x + 1) (y + 1)

/-- `N2` (45_mask.md R533). -/
def penaltyBlocks (w : Plane) (size : Nat) : Nat := 3 * (squareCells (size - 1)).countP fun c => blockAt w c.1 c.2

/-- `PAT` (45_mask.md R534). -/
def finderLike : List Bool := [true, false, true, true, true, false, true, false, false, false, false]

/-- `ALT`, by `CTRL.PATMODE` (45_mask.md R534): the colour complement of PAT, or its reverse. -/
def altPattern (patMode : Bool) : List Bool :=
  if patMode then [false, false, false, false, true, false, true, true, true, false, true]
  else [false, true, false, false, false, true, false, true, true, true, true]

/-- The windows of 11 cells of a line that equal PAT or ALT (45_mask.md R534). -/
def patternWindows (patMode : Bool) (line : List Bool) : Nat :=
  (List.range (line.length - 10)).countP fun i =>
    (line.drop i).take 11 == finderLike || (line.drop i).take 11 == altPattern patMode

/-- `N3` (45_mask.md R534). -/
def penaltyPatterns (patMode : Bool) (w : Plane) (size : Nat) : Nat :=
  40 * ((gridLines w size).map (patternWindows patMode)).sum

/-- The number of dark cells of the symbol (45_mask.md R535). -/
def darkCount (w : Plane) (size : Nat) : Nat := (squareCells size).countP fun c => w.get c.1 c.2

/-- `d`, the whole percents between the dark share and a half (45_mask.md R535). -/
def balanceDeviation (dark total : Nat) : Nat := dist (100 * dark) (50 * total) / total

/-- `N4`, by `CTRL.BALMODE` (45_mask.md R535). -/
def penaltyBalance (balMode : Bool) (w : Plane) (size : Nat) : Nat :=
  let d := balanceDeviation (darkCount w size) (size * size)
  if balMode then 10 * (d / 5) else 10 * (d - 1)

/-- The four penalties of a candidate, as natural numbers. -/
structure Penalties where
  n1 : Nat
  n2 : Nat
  n3 : Nat
  n4 : Nat
  deriving DecidableEq, Repr

/-- The penalties of a grid under the modes of CTRL (45_mask.md R532 to R535). -/
def penalties (ctrl : Ctrl) (w : Plane) (size : Nat) : Penalties :=
  ⟨penaltyRuns w size, penaltyBlocks w size, penaltyPatterns ctrl.patMode w size, penaltyBalance ctrl.balMode w size⟩

/-- The total of the four (45_mask.md R536). -/
def Penalties.total (n : Penalties) : Nat := n.n1 + n.n2 + n.n3 + n.n4

/-- The four as `PEN1` to `PEN4`. -/
def Penalties.toPens (n : Penalties) : Pens :=
  ⟨BitVec.ofNat 32 n.n1, BitVec.ofNat 32 n.n2, BitVec.ofNat 32 n.n3, BitVec.ofNat 32 n.n4⟩

/-- The penalties of candidate m. -/
def candidatePenalties (s : State) (m : Nat) : Penalties := penalties s.cfg.ctrl (candidate s m) (gridSize s)

/-- `score(m)` (45_mask.md R536). -/
def score (s : State) (m : Nat) : Nat := (candidatePenalties s m).total

/-- The selection: the lowest id among those with the smallest total (45_mask.md R537). -/
def pickBest (total : Nat → Nat) : Nat :=
  (List.range' 1 7).foldl (fun best m => if total m < total best then m else best) 0

/-! ### The commands -/

/-- MASK_SCORE (45_mask.md R541). -/
def effMaskScore (m : Nat) (s : State) : Except ErrorCode State :=
  withMaskId m <| withGrid s <| withUnmasked s <|
    let n := candidatePenalties s m
    .ok { s with pens := n.toPens, scores := s.scores.setIfInBounds m (BitVec.ofNat 32 n.total) }

/-- MASK_SCORE, run and completed. -/
def execMaskScore (m : Nat) (s : State) : Host.Outcome State Fault Refusal := conclude s (effMaskScore m s)

/-- Put mask m on the grid: V, FMT, MASK_ID and MASKED (45_mask.md R542, R543). -/
def applyMask (m : Nat) (s : State) : State :=
  { s with
    v := candidate s m
    fmt := fmtWord s.cfg.eccl (BitVec.ofNat 3 m)
    maskId := BitVec.ofNat 3 m
    status := { s.status with masked := true } }

/-- MASK_APPLY (45_mask.md R542). -/
def effMaskApply (m : Nat) (s : State) : Except ErrorCode State :=
  withMaskId m <| withGrid s <| withUnmasked s <| .ok (applyMask m s)

/-- MASK_APPLY, run and completed. -/
def execMaskApply (m : Nat) (s : State) : Host.Outcome State Fault Refusal := conclude s (effMaskApply m s)

/-- MASK_AUTO (45_mask.md R543). -/
def effMaskAuto (s : State) : Except ErrorCode State :=
  withGrid s <| withUnmasked s <|
    let totals := (List.range 8).map (score s)
    let best := pickBest fun m => totals.getD m 0
    .ok { applyMask best s with
      scores := Vector.ofFn fun m => BitVec.ofNat 32 (totals.getD m.val 0)
      pens := (candidatePenalties s best).toPens }

/-- MASK_AUTO, run and completed. -/
def execMaskAuto (s : State) : Host.Outcome State Fault Refusal := conclude s (effMaskAuto s)

end Sys2Proof.Machine
end

