-- ==== Sys2Proof/Machine/Placement.lean ====
section
/-! DEFINITION. The data zigzag writer (44_placement.md): the visiting order, the content reader, and the command PLACE. -/

namespace Sys2Proof.Machine

/-- One column pair of the walk: columns right and right − 1, swept upward or downward (44_placement.md R500). -/
def columnPair (size right : Nat) (upward : Bool) : List (Nat × Nat) :=
  (List.range size).flatMap fun t =>
    let y := if upward then size - 1 - t else t
    [(right, y), (right - 1, y)]

/-- The walk from column `right` leftward, skipping column 6; at most `fuel` pairs (44_placement.md R500). -/
def zigzagFrom (size : Nat) : (fuel right : Nat) → (upward : Bool) → List (Nat × Nat)
  | 0, _, _ => []
  | fuel + 1, right, upward =>
    if right < 1 then []
    else
      let right := if right = 6 then 5 else right
      columnPair size right upward ++ zigzagFrom size fuel (right - 2) (!upward)

/-- `zigzag(S)` (44_placement.md R500): the first pair, at columns S−1 and S−2, sweeps upward. S pairs are more than the
walk has. -/
def zigzag (size : Nat) : List (Nat × Nat) := zigzagFrom size size (size - 1) true

/-- `bit(i)`, the content reader (44_placement.md R501). -/
def contentBit (s : State) (i : Nat) : Bool :=
  if i < 8 * s.cwCount.toNat then (bufByte s .ibuf (i / 8)).getLsbD (7 - i % 8) else false

/-- `U`, the number of unprotected cells of the symbol (44_placement.md R503). -/
def unprotectedCount (p : Plane) (size : Nat) : Nat := (squareCells size).countP fun c => !p.get c.1 c.2

/-- One cell of the walk: write the next bit, and consume it if the write succeeded (44_placement.md R502, R510). -/
def placeStep (p : Plane) (bits : Nat → Bool) (acc : Plane × Nat) (c : Nat × Nat) : Plane × Nat :=
  let w := gridWrite acc.1 p c.1 c.2 (bits acc.2) false
  (w.2, if w.1 then acc.2 + 1 else acc.2)

/-- Plane V after the bits are written along a walk (44_placement.md R510). -/
def placeBits (v p : Plane) (bits : Nat → Bool) (walk : List (Nat × Nat)) : Plane :=
  (walk.foldl (placeStep p bits) (v, 0)).1

/-- PLACE (44_placement.md R510). -/
def effPlace (s : State) : Except ErrorCode State :=
  withGrid s <| withUnmasked s <|
    let len := 8 * s.cwCount.toNat
    let u := unprotectedCount s.p (gridSize s)
    if Config.bufSize < s.cwCount.toNat then .error .badRange
    else if u < len then .error .lenMismatch
    else .ok { s with
      v := placeBits s.v s.p (contentBit s) (zigzag (gridSize s))
      placed := BitVec.ofNat 16 len
      remBits := BitVec.ofNat 16 (u - len) }

/-- PLACE, run and completed. -/
def execPlace (s : State) : Host.Outcome State Fault Refusal := conclude s (effPlace s)

end Sys2Proof.Machine
end

