-- ==== Sys2Proof/Machine/Rs.lean ====
section
/-! DEFINITION. The Reed-Solomon encoder (41_rs.md): the generator polynomial, the polynomial division, and the commands
RS_GEN, RS_ENC and RS_ALL. -/

namespace Sys2Proof.Machine

/-- `gen(n)` for n ≥ 1: n + 1 coefficients, highest degree first (41_rs.md R352). -/
def genPoly (n : Nat) : List Byte :=
  (List.range' 1 (n - 1)).foldl (fun g i => polyMul g [0x01, gfExp i]) [0x01, gfExp 0]

/-- One step of the division (41_rs.md R353): with lead = W[i], add lead times g into W at offset i. When lead is 0 this
adds nothing. -/
def divStep (g w : List Byte) (i : Nat) : List Byte :=
  let lead := w.getD i 0
  if lead = 0 then w
  else w.mapIdx fun p c => if i ≤ p ∧ p - i < g.length then gfAdd c (gfMul (g.getD (p - i) 0) lead) else c

/-- The division's loop over the first k positions of a dividend (41_rs.md R353). -/
def divide (g w : List Byte) (k : Nat) : List Byte := (List.range k).foldl (divStep g) w

/-- `rs_rem(D, g)` for a generator of g.length − 1 = n (41_rs.md R353). -/
def rsRem (data g : List Byte) : List Byte :=
  (divide g (data ++ List.replicate (g.length - 1) 0) data.length).drop data.length

/-- The GEN slots that hold the generator of degree n: slots above the degree are 0 (10_state.md R85, 41_rs.md R360). -/
def generatorSlots (n : Nat) : Vector Byte (Config.nEccMax + 1) :=
  let g := genPoly n
  Vector.ofFn fun i => if i.val ≤ n then g.getD i.val 0 else 0

/-- Build the generator of degree n into GEN and GEN_DEG (41_rs.md R360, R362). -/
def setGenerator (n : Nat) (s : State) : State :=
  { s with gen := generatorSlots n, genDeg := BitVec.ofNat 8 n }

/-- The data codewords of block b (41_rs.md R350). -/
def dataBlock (s : State) (b : Nat) : List Byte := bufBytes s .dbuf (dataOffset s.cfg b) (blockLen s.cfg b)

/-- The buffers after encoding every block of the profile with g (41_rs.md R362). DBUF is not written, so every block is
read from `s`. -/
def encodeBlocks (s : State) (g : List Byte) : Memory :=
  (List.range (totalBlocks s.cfg)).foldl (fun m b => writeBuf m .ebuf (eccOffset s.cfg b) (rsRem (dataBlock s b) g)) s.mem

/-! ### The commands -/

/-- RS_GEN (41_rs.md R360). -/
def effRsGen (n : Nat) (s : State) : Except ErrorCode State :=
  if n < 1 ∨ Config.nEccMax < n then .error .invalidConfig else .ok (setGenerator n s)

/-- RS_GEN, run and completed. -/
def execRsGen (n : Nat) (s : State) : Host.Outcome State Fault Refusal := conclude s (effRsGen n s)

/-- RS_ENC (41_rs.md R361). -/
def effRsEnc (k : Nat) (s : State) : Except ErrorCode State :=
  let n := s.genDeg.toNat
  let src := s.cfg.rsSrc.toNat
  let dst := s.cfg.rsDst.toNat
  if n = 0 then .error .noGen
  else if Config.bufSize < src + k ∨ Config.bufSize < dst + n then .error .badRange
  else
    let g := (List.range (n + 1)).map fun i => s.gen.toList.getD i 0
    .ok { s with mem := writeBuf s.mem .ebuf dst (rsRem (bufBytes s .dbuf src k) g) }

/-- RS_ENC, run and completed. -/
def execRsEnc (k : Nat) (s : State) : Host.Outcome State Fault Refusal := conclude s (effRsEnc k s)

/-- RS_ALL (41_rs.md R362). -/
def effRsAll (s : State) : Except ErrorCode State :=
  if profileOk s.cfg then
    let n := s.cfg.necc.toNat
    .ok (setGenerator n { s with mem := encodeBlocks s (genPoly n) })
  else .error .invalidConfig

/-- RS_ALL, run and completed. -/
def execRsAll (s : State) : Host.Outcome State Fault Refusal := conclude s (effRsAll s)

end Sys2Proof.Machine
end

