-- ==== Sys2Proof/Machine/Control.lean ====
section
/-! DEFINITION. The control commands (47_control.md): NOP and RUN; and how a word that selects no command completes. -/

namespace Sys2Proof.Machine

/-- NOP (47_control.md R650). -/
def execNop (s : State) : Host.Outcome State Fault Refusal := conclude s (.ok s)

/-- Stage 5 of RUN: VINFO_WR on a grid of version 7 and up (47_control.md R651). -/
def stageVersionInfo (s : State) : Except ErrorCode State := if 7 ≤ s.gridInfo.gver.toNat then effVinfoWr s else .ok s

/-- The stages of RUN, in order (47_control.md R651, R652). -/
def runStages : List (State → Except ErrorCode State) :=
  [effRsAll, effIlv, effGridInit, effPlace, stageVersionInfo, effMaskAuto]

/-- Run stages until one raises an error: the state the completed ones left, how many those are, and the error
(47_control.md R651). -/
def runFrom (stages : List (State → Except ErrorCode State)) (s : State) (done : Nat) : State × Nat × Option ErrorCode :=
  match stages with
  | [] => (s, done, none)
  | stage :: rest =>
    match stage s with
    | .ok t => runFrom rest t (done + 1)
    | .error e => (s, done, some e)

/-- RUN (47_control.md R651): the completed stages are kept and RESULT counts them, whether or not a stage failed. -/
def execRun (s : State) : Host.Outcome State Fault Refusal :=
  let r := runFrom runStages s 0
  .next (complete r.2.2 { r.1 with result := BitVec.ofNat 32 r.2.1 })

/-- Completion of a word that decodes to no command: ILLEGAL_CMD (30_encoding.md R209, R210). -/
def refuseWord (s : State) : Host.Outcome State Fault Refusal := conclude s (.error .illegalCmd)

end Sys2Proof.Machine
end

