-- ==== Sys2Proof/Machine/Dispatch.lean ====
section
/-! DEFINITION. The meaning of every command: one arm per constructor of Instr. -/

namespace Sys2Proof.Machine

def exec (i : Instr) (s : State) : Host.Outcome State Fault Refusal :=
  match i with
  | .nop => Sys2Proof.Machine.execNop s
  | .gfMul a b => Sys2Proof.Machine.execGfMul a b s
  | .gfDiv a b => Sys2Proof.Machine.execGfDiv a b s
  | .gfExp e => Sys2Proof.Machine.execGfExp e s
  | .gfLog a => Sys2Proof.Machine.execGfLog a s
  | .rsGen n => Sys2Proof.Machine.execRsGen n s
  | .rsEnc k => Sys2Proof.Machine.execRsEnc k s
  | .rsAll => Sys2Proof.Machine.execRsAll s
  | .ilv => Sys2Proof.Machine.execIlv s
  | .gridInit => Sys2Proof.Machine.execGridInit s
  | .gridWr x y d f => Sys2Proof.Machine.execGridWr x y d f s
  | .gridRd x y => Sys2Proof.Machine.execGridRd x y s
  | .gridRsv x y => Sys2Proof.Machine.execGridRsv x y s
  | .place => Sys2Proof.Machine.execPlace s
  | .maskScore m => Sys2Proof.Machine.execMaskScore m s
  | .maskApply m => Sys2Proof.Machine.execMaskApply m s
  | .maskAuto => Sys2Proof.Machine.execMaskAuto s
  | .fmtEnc m => Sys2Proof.Machine.execFmtEnc m s
  | .fmtWr => Sys2Proof.Machine.execFmtWr s
  | .vinfoWr => Sys2Proof.Machine.execVinfoWr s
  | .run => Sys2Proof.Machine.execRun s

end Sys2Proof.Machine
end

