-- ==== Sys2Proof/Machine/Flags.lean ====
section
/-! DEFINITION. The flags of `STATUS` as a word, the host's write to it, and the interrupt output. -/

namespace Sys2Proof.Machine

/-- A bit as a one-bit vector. -/
def bit (b : Bool) : BitVec 1 := BitVec.ofBool b

/-- `STATUS` as the host reads it (10_state.md R54): ERRCODE in bits 11:8, WERR, MASKED, GV, ERR, DONE, BUSY in bits 5 to 0. -/
def statusWord (s : State) : Word :=
  0#20 ++ s.status.errcode ++ 0#2 ++ bit s.status.werr ++ bit s.status.masked ++ bit s.status.gv ++ bit s.status.err ++
    bit s.status.done ++ bit s.engine.isBusy

/-- A host write to `STATUS` (10_state.md R54): bit 1 clears DONE, ERR and ERRCODE; bit 5 clears WERR. -/
def Status.clear (st : Status) (d : Word) : Status :=
  let st := if d.getLsbD 1 then { st with done := false, err := false, errcode := 0 } else st
  if d.getLsbD 5 then { st with werr := false } else st

/-- The interrupt output (60_exceptions.md R720, 10_state.md R91). -/
def irq (s : State) : Bool := s.cfg.ctrl.ie && s.status.done

end Sys2Proof.Machine
end

