-- ==== Sys2Proof/Machine/Registers.lean ====
section
/-! DEFINITION. The register page (10_state.md section 2): every register's offset, what the host reads from it, and what a
host write does to it. -/

namespace Sys2Proof.Machine

/-- The host-visible registers (10_state.md R52 to R79). -/
inductive Reg where
  | id | ctrl | status | cmd | result | version | eccl | prof0 | prof1 | necc | alnCnt | alnPos0 | alnPos1 | vinfo
  | rsSrc | rsDst | genDeg | cwCount | placed | remBits | gridInfo | fmt | maskId | pen1 | pen2 | pen3 | pen4
  | score (m : Fin 8)
  deriving DecidableEq, Repr

/-- The register at an offset of the page (10_state.md R52 to R80); none at 0x06C and from 0x090 on. -/
def regAt : Nat → Option Reg
  | 0x000 => some .id
  | 0x004 => some .ctrl
  | 0x008 => some .status
  | 0x00C => some .cmd
  | 0x010 => some .result
  | 0x014 => some .version
  | 0x018 => some .eccl
  | 0x01C => some .prof0
  | 0x020 => some .prof1
  | 0x024 => some .necc
  | 0x028 => some .alnCnt
  | 0x02C => some .alnPos0
  | 0x030 => some .alnPos1
  | 0x034 => some .vinfo
  | 0x038 => some .rsSrc
  | 0x03C => some .rsDst
  | 0x040 => some .genDeg
  | 0x044 => some .cwCount
  | 0x048 => some .placed
  | 0x04C => some .remBits
  | 0x050 => some .gridInfo
  | 0x054 => some .fmt
  | 0x058 => some .maskId
  | 0x05C => some .pen1
  | 0x060 => some .pen2
  | 0x064 => some .pen3
  | 0x068 => some .pen4
  | 0x070 => some (.score 0)
  | 0x074 => some (.score 1)
  | 0x078 => some (.score 2)
  | 0x07C => some (.score 3)
  | 0x080 => some (.score 4)
  | 0x084 => some (.score 5)
  | 0x088 => some (.score 6)
  | 0x08C => some (.score 7)
  | _ => none

/-- The constant of `ID`: ASCII "QRC" and revision 1 (10_state.md R52). -/
def idWord : Word := 0x51524301

/-- What the host reads from a register (10_state.md R52 to R79). Reserved bits read 0 (R51). -/
def readReg (s : State) : Reg → Word
  | .id => idWord
  | .ctrl =>
    0#28 ++ bit s.cfg.ctrl.balMode ++ bit s.cfg.ctrl.patMode ++ bit s.cfg.ctrl.alnMode ++ bit s.cfg.ctrl.ie
  | .status => statusWord s
  | .cmd => s.cmd
  | .result => s.result
  | .version => s.cfg.version.setWidth 32
  | .eccl => s.cfg.eccl.setWidth 32
  | .prof0 => 0#16 ++ s.cfg.g0Dcw ++ s.cfg.g0Blocks
  | .prof1 => 0#16 ++ s.cfg.g1Dcw ++ s.cfg.g1Blocks
  | .necc => s.cfg.necc.setWidth 32
  | .alnCnt => s.cfg.alnCnt.setWidth 32
  | .alnPos0 => s.cfg.aln[3] ++ s.cfg.aln[2] ++ s.cfg.aln[1] ++ s.cfg.aln[0]
  | .alnPos1 => 0#8 ++ s.cfg.aln[6] ++ s.cfg.aln[5] ++ s.cfg.aln[4]
  | .vinfo => s.cfg.vinfo.setWidth 32
  | .rsSrc => s.cfg.rsSrc.setWidth 32
  | .rsDst => s.cfg.rsDst.setWidth 32
  | .genDeg => s.genDeg.setWidth 32
  | .cwCount => s.cwCount.setWidth 32
  | .placed => s.placed.setWidth 32
  | .remBits => s.remBits.setWidth 32
  | .gridInfo => 0#18 ++ s.gridInfo.gver ++ s.gridInfo.size
  | .fmt => s.fmt.setWidth 32
  | .maskId => s.maskId.setWidth 32
  | .pen1 => s.pens.pen1
  | .pen2 => s.pens.pen2
  | .pen3 => s.pens.pen3
  | .pen4 => s.pens.pen4
  | .score m => s.scores[m]

/-- The byte of a word in lane j (20_memory.md R155). -/
def lane (d : Word) (j : Nat) : Byte := d.extractLsb' (8 * j) 8

/-- What a host write stores in the configuration registers (10_state.md R53, R57 to R67); reserved bits are ignored. -/
def CfgRegs.write (c : CfgRegs) (r : Reg) (d : Word) : CfgRegs :=
  match r with
  | .ctrl => { c with ctrl := ⟨d.getLsbD 0, d.getLsbD 1, d.getLsbD 2, d.getLsbD 3⟩ }
  | .version => { c with version := d.setWidth 6 }
  | .eccl => { c with eccl := d.setWidth 2 }
  | .prof0 => { c with g0Blocks := lane d 0, g0Dcw := lane d 1 }
  | .prof1 => { c with g1Blocks := lane d 0, g1Dcw := lane d 1 }
  | .necc => { c with necc := lane d 0 }
  | .alnCnt => { c with alnCnt := d.setWidth 3 }
  | .alnPos0 => { c with aln := (((c.aln.set 0 (lane d 0)).set 1 (lane d 1)).set 2 (lane d 2)).set 3 (lane d 3) }
  | .alnPos1 => { c with aln := ((c.aln.set 4 (lane d 0)).set 5 (lane d 1)).set 6 (lane d 2) }
  | .vinfo => { c with vinfo := d.setWidth 18 }
  | .rsSrc => { c with rsSrc := d.setWidth 12 }
  | .rsDst => { c with rsDst := d.setWidth 12 }
  | .id | .status | .cmd | .result | .genDeg | .cwCount | .placed | .remBits | .gridInfo | .fmt | .maskId | .pen1 | .pen2
  | .pen3 | .pen4 | .score _ => c

/-- What a host write that is not dropped does (10_state.md R51 to R79): `CMD` accepts a command, `STATUS` clears flags, RW
registers store their fields, and the others ignore it. -/
def writeReg (s : State) (r : Reg) (d : Word) : State :=
  match r with
  | .status => { s with status := s.status.clear d }
  | .cmd => accept d s
  | .cwCount => { s with cwCount := d.setWidth 13 }
  | .ctrl | .version | .eccl | .prof0 | .prof1 | .necc | .alnCnt | .alnPos0 | .alnPos1 | .vinfo | .rsSrc | .rsDst =>
    { s with cfg := s.cfg.write r d }
  | .id | .result | .genDeg | .placed | .remBits | .gridInfo | .fmt | .maskId | .pen1 | .pen2 | .pen3 | .pen4
  | .score _ => s

end Sys2Proof.Machine
end

