-- ==== Sys2Proof/Machine/HostPort.lean ====
section
/-! DEFINITION. The host interface (20_memory.md): the address map, HostRead and HostWrite with the busy rules, and the reset
pin. -/

namespace Sys2Proof.Machine

/-- What a host address names (20_memory.md R152, R153, R157). -/
inductive Region where
  /-- A register of the register page. -/
  | reg (r : Reg)
  /-- Word w of the GEN window. -/
  | gen (w : Nat)
  /-- The buffer word whose lowest byte has this address. -/
  | buffer (addr : Nat)
  /-- Word w of row y of the GRIDV window. -/
  | gridV (y w : Nat)
  /-- Word w of row y of the GRIDP window. -/
  | gridP (y w : Nat)
  /-- No register and no window. -/
  | unassigned
  /-- `addr[1:0]` is not 0. -/
  | misaligned
  deriving DecidableEq, Repr

/-- The address map (20_memory.md R152 to R157). -/
def regionOf (addr : HAddr) : Region :=
  let a := addr.toNat
  if a % 4 ≠ 0 then .misaligned
  else if a < 0x400 then
    match regAt a with
    | some r => .reg r
    | none => .unassigned
  else if a < 0x500 then .gen ((a - 0x400) / 4)
  else if a < 0x1000 then .unassigned
  else if a < 0x4000 then .buffer a
  else if a < 0x8000 then .unassigned
  else if a < 0xA000 then .gridV ((a - 0x8000) / 32) (a % 32 / 4)
  else if a < 0xC000 then .gridP ((a - 0xA000) / 32) (a % 32 / 4)
  else .unassigned

/-- Word w of the GEN window (20_memory.md R154). -/
def genWord (s : State) (w : Nat) : Word :=
  let slot j := s.gen.toList.getD (4 * w + j) 0
  slot 3 ++ slot 2 ++ slot 1 ++ slot 0

/-- The buffer word at a word-aligned address, little-endian (20_memory.md R155). -/
def bufferWord (s : State) (a : Nat) : Word := byteAt s (a + 3) ++ byteAt s (a + 2) ++ byteAt s (a + 1) ++ byteAt s a

/-- Word w of row y of a grid window (20_memory.md R156). -/
def gridWord (s : State) (plane : Plane) (y w : Nat) : Word :=
  bitsOf (fun b => s.status.gv && decide (y < gridSize s) && decide (32 * w + b < gridSize s) && plane.get (32 * w + b) y) 32

/-- The data of a read of a location while idle: of a window, or of a register; 0 where nothing is mapped. -/
def readRegion (s : State) : Region → Word
  | .reg r => readReg s r
  | .gen w => genWord s w
  | .buffer a => bufferWord s a
  | .gridV y w => gridWord s s.v y w
  | .gridP y w => gridWord s s.p y w
  | .unassigned => 0
  | .misaligned => 0

/-- What a write that is not dropped does (20_memory.md R154 to R157): the GEN and grid windows ignore it. -/
def writeRegion (s : State) (g : Region) (d : Word) : State :=
  match g with
  | .reg r => writeReg s r d
  | .buffer a => { s with mem := s.mem.writeBytes a [lane d 0, lane d 1, lane d 2, lane d 3] }
  | .gen _ => s
  | .gridV _ _ => s
  | .gridP _ _ => s
  | .unassigned => s
  | .misaligned => s

/-- The response to an access of a location that is not dropped: ERR where nothing is mapped (20_memory.md R153, R157). -/
def Region.resp : Region → Resp
  | .unassigned => .err
  | .misaligned => .err
  | .reg _ => .ok
  | .gen _ => .ok
  | .buffer _ => .ok
  | .gridV _ _ => .ok
  | .gridP _ _ => .ok

/-- The registers whose reads are exact while BUSY (20_memory.md R172). -/
def Region.exactWhileBusy : Region → Bool
  | .reg .id => true
  | .reg .ctrl => true
  | .reg .status => true
  | .reg .cmd => true
  | g => decide (g.resp = .err)

/-- HostRead (20_memory.md R151 to R160, R172): no effect but the answer. -/
def hostRead (addr : HAddr) (s : State) : State :=
  let g := regionOf addr
  if s.engine.isBusy && !g.exactWhileBusy then
    { s with answer := some (.read (Config.busyData s.draws addr) .ok), draws := s.draws + 1 }
  else { s with answer := some (.read (readRegion s g) g.resp) }

/-- HostWrite (20_memory.md R151 to R160, R171). -/
def hostWrite (addr : HAddr) (d : Word) (s : State) : State :=
  let g := regionOf addr
  if g.resp = .err then { s with answer := some (.wrote .err) }
  else if s.engine.isBusy && decide (g ≠ .reg .status) then
    { s with status := { s.status with werr := true }, answer := some (.wrote .err) }
  else { writeRegion s g d with answer := some (.wrote .ok) }

/-- The response of an access made while `rst` is asserted: unspecified (70_reset_and_hazards.md R760; log 7). -/
def rstResp (s : State) : Resp := if Config.rstAnswersErr s.draws then .err else .ok

/-- A read while `rst` is asserted: not performed, unspecified answer (70_reset_and_hazards.md R760). -/
def readInReset (s : State) : State :=
  { s with answer := some (.read (Config.rstData s.draws) (rstResp s)), draws := s.draws + 1 }

/-- A write while `rst` is asserted: not performed, unspecified answer (70_reset_and_hazards.md R760). -/
def writeInReset (s : State) : State := { s with answer := some (.wrote (rstResp s)), draws := s.draws + 1 }

/-- The `rst` pin is driven (70_reset_and_hazards.md R760): asserting it resets the core, abandoning a command in flight, and
draws the unspecified contents anew; releasing it lets the core run. -/
def driveRst (asserted : Bool) (s : State) : State :=
  if asserted then
    { State.afterReset (s.epoch + 1) with rst := true, inputs := s.inputs, answer := s.answer, draws := s.draws }
  else { s with rst := false }

/-- The host's read, as the reset pin allows it. -/
def portRead (addr : HAddr) (s : State) : State := if s.rst then readInReset s else hostRead addr s

/-- The host's write, as the reset pin allows it. -/
def portWrite (addr : HAddr) (d : Word) (s : State) : State := if s.rst then writeInReset s else hostWrite addr d s

/-- The next event of the schedule: the engine's turn once no event is pending (70_reset_and_hazards.md R785; log 5). -/
def nextInput (s : State) : Input := s.inputs.headD .engine

/-- The state in which the next event is taken: it is consumed, and no access has been answered yet. -/
def takeInput (s : State) : State := { s with inputs := s.inputs.tail, answer := none }

/-- The command word the engine has to complete, if it may (10_state.md R81, 70_reset_and_hazards.md R760). -/
def commandInFlight (s : State) : Option Word :=
  if s.rst then none
  else
    match s.engine with
    | .idle => none
    | .busy c => some c

end Sys2Proof.Machine
end

