-- ==== Sys2Proof/Machine/Step.lean ====
section
/-! DEFINITION. One step of the machine: the next event of the schedule, or the engine's turn. -/

namespace Sys2Proof.Machine

/-- The engine's turn: complete the command in flight (60_exceptions.md R711), decoding it by 30_encoding.md R209; nothing
happens while the engine is idle (70_reset_and_hazards.md R761). -/
def engineTurn (s : State) : Host.Outcome State Fault Refusal :=
  match commandInFlight s with
  | none => .next s
  | some c =>
    match decode c with
    | .ok i => exec i s
    | .error _ => refuseWord s

/-- One atomic step of the interleaving (20_memory.md R173). -/
def step (s : State) : Host.Outcome State Fault Refusal :=
  match nextInput s with
  | .engine => engineTurn (takeInput s)
  | .read a => .next (portRead a (takeInput s))
  | .write a d => .next (portWrite a d (takeInput s))
  | .rst level => .next (driveRst level (takeInput s))

/-- The state in which the next step runs the command word `w`: the word has just been accepted (60_exceptions.md R710), no
event stands before the engine's turn, and `rst` is released. The bits above `nbits` are 0 (log 4). -/
def State.withFetchWord (s : State) (nbits w : Nat) : State :=
  accept (BitVec.ofNat 32 (w % 2 ^ nbits)) { s with inputs := [], rst := false }

end Sys2Proof.Machine
end

