-- ==== Sys2Proof/Safety.lean ====
section
/-! DEFINITION. What a well-behaved state is, in the terms the claims use: the invariants of the status, of the generator,
of the grid and of the buffers. -/

namespace Sys2Proof.Machine

/-- The flags agree with each other and with the engine (10_state.md R54, R55, R81; 60_exceptions.md R700, R710, R711):
ERR exactly with a code, a code only of R700, ERR only with DONE; while busy the report is clear and `CMD` is the latched
word; a mask only on a grid; an engine held in reset is idle. -/
def State.StatusInv (s : State) : Prop :=
  (s.status.err = true ↔ s.status.errcode ≠ 0) ∧ s.status.errcode.toNat ≤ 10 ∧
    (s.status.err = true → s.status.done = true) ∧
    (∀ c, s.engine = .busy c → s.cmd = c ∧ s.status.done = false ∧ s.rst = false) ∧
    (s.status.masked = true → s.status.gv = true)

/-- GEN and GEN_DEG hold a generator, or the reset value (10_state.md R68, R85; 41_rs.md R360). -/
def State.GenInv (s : State) : Prop :=
  (s.genDeg = 0 ∧ s.gen = Vector.replicate _ 0) ∨
    (1 ≤ s.genDeg.toNat ∧ s.genDeg.toNat ≤ Config.nEccMax ∧ s.gen = generatorSlots s.genDeg.toNat)

/-- Column x, row y is a cell of a function pattern of every grid of this version and size: finder region, timing line,
dark module, format strip or version block (43_grid.md R431 to R433, R437, R438). -/
def functionCell (version size x y : Nat) : Prop :=
  (x < 8 ∧ y < 8) ∨ (size - 8 ≤ x ∧ x < size ∧ y < 8) ∨ (x < 8 ∧ size - 8 ≤ y ∧ y < size) ∨
    (y = 6 ∧ x < size) ∨ (x = 6 ∧ y < size) ∨
    (x = 8 ∧ y = size - 8) ∨
    (y = 8 ∧ (x ≤ 8 ∨ (size - 8 ≤ x ∧ x < size))) ∨ (x = 8 ∧ (y ≤ 8 ∨ (size - 7 ≤ y ∧ y < size))) ∨
    (7 ≤ version ∧ size - 11 ≤ x ∧ x ≤ size - 9 ∧ y ≤ 5) ∨ (7 ≤ version ∧ size - 11 ≤ y ∧ y ≤ size - 9 ∧ x ≤ 5)

/-- The grid is one GRID_INIT built (43_grid.md R441; 10_state.md R72, R86 to R88): its version is legal and its size that
version's, cells outside it are 0, its function patterns are protected; without a grid, GRIDINFO is 0. -/
def State.GridInv (s : State) : Prop :=
  (s.status.gv = false → s.gridInfo = ⟨0, 0⟩) ∧
    (s.status.gv = true →
      1 ≤ s.gridInfo.gver.toNat ∧ s.gridInfo.gver.toNat ≤ 40 ∧ gridSize s = 17 + 4 * s.gridInfo.gver.toNat ∧
        (∀ x y, gridSize s ≤ x ∨ gridSize s ≤ y → s.v.get x y = false ∧ s.p.get x y = false) ∧
        (∀ x y, functionCell s.gridInfo.gver.toNat (gridSize s) x y → s.p.get x y = true))

/-- The written bytes are in canonical form. -/
def State.MemInv (s : State) : Prop := s.mem.wf = true

/-- All of them. -/
def State.Inv (s : State) : Prop := s.StatusInv ∧ s.GenInv ∧ s.GridInv ∧ s.MemInv

end Sys2Proof.Machine
end

