-- ==== Sys2Proof/Certificates/Slice0/Obligations.lean ====
section
/-! DEFINITION. The statements for the provers, and the words they are written in. Each docstring names the rule of spec/
it formalises. -/

namespace Sys2Proof.Claims

open Sys2Proof Sys2Proof.Machine

/-! ### Outcomes of a command -/

/-- `s` with the command in flight completed without an error (60_exceptions.md R711); everything else as in `s`. -/
def succeeded (s : State) : State :=
  { s with engine := .idle, status := { s.status with done := true, err := false, errcode := 0 } }

/-- `s` with the command in flight completed with an error of this code (60_exceptions.md R700, R711); everything else as in
`s`. -/
def failed (code : BitVec 4) (s : State) : State :=
  { s with engine := .idle, status := { s.status with done := true, err := true, errcode := code } }

/-- `s` after its first pending event is taken off the schedule, with no access answered yet. -/
def taken (s : State) : State := { s with inputs := s.inputs.tail, answer := none }

/-- It is the engine's turn: no event is pending, or the first one is the engine's. -/
def engineIsNext (s : State) : Prop := s.inputs = [] ∨ ∃ rest, s.inputs = .engine :: rest

/-! ### Encodings -/

/-- One row per command of opcode_table.json: (lo, value) when bits 31 down to lo of its word are fixed at value. -/
def commandRows : List (Nat × Nat) :=
  [(0, 0), (16, 256), (16, 512), (8, 196608), (8, 262144), (8, 1048576), (8, 1114112), (0, 301989888), (0, 536870912),
    (0, 805306368)] ++
  [(18, 3136), (16, 12800), (16, 13056), (0, 1073741824), (8, 5242880), (8, 5308416), (0, 1375731712), (8, 6291456),
    (0, 1627389952), (0, 1644167168), (0, 1879048192)]

/-- Bits 31 down to lo of the word have the row's value. -/
def matchesRow (c : Word) (row : Nat × Nat) : Prop := c.toNat / 2 ^ row.1 = row.2

/-! ### The field, from its polynomial alone (40_gf.md R300, R301) -/

/-- Multiplication of a field element by x. -/
def timesX (v : Byte) : Byte := if v.getLsbD 7 then (v <<< 1) ^^^ 0x1D#8 else v <<< 1

/-- The product of two polynomials over GF(2), reduced modulo x⁸+x⁴+x³+x²+1: the sum of a·xⁱ over the bits i of b. -/
def polyProduct (a b : Byte) : Byte :=
  (List.range 8).foldl (fun acc i => if b.getLsbD i then acc ^^^ timesX^[i] a else acc) 0

/-- α to the power i, for α = x. -/
def alphaPower (i : Nat) : Byte := timesX^[i] 1

/-- The value at x of a polynomial with coefficients highest degree first. -/
def evalPoly (p : List Byte) (x : Byte) : Byte := p.foldl (fun acc c => polyProduct acc x ^^^ c) 0

/-! ### Blocks (41_rs.md R350, 42_interleave.md R400) -/

/-- The first byte in DBUF of block b: the blocks stand one after the other, group 1's first. -/
def blockStart (c : CfgRegs) (b : Nat) : Nat :=
  if b < c.g0Blocks.toNat then b * c.g0Dcw.toNat
  else c.g0Blocks.toNat * c.g0Dcw.toNat + (b - c.g0Blocks.toNat) * c.g1Dcw.toNat

/-- The blocks before block b that have an i-th data codeword. -/
def blocksWithCodeword (c : CfgRegs) (i b : Nat) : Nat := ((List.range b).filter fun b' => decide (i < blockLen c b')).length

/-- The place in the interleaved sequence of data codeword i of block b: after all codewords of earlier rounds, and after
those of this round in earlier blocks. -/
def dataPlace (c : CfgRegs) (i b : Nat) : Nat :=
  ((List.range i).map fun i' => blocksWithCodeword c i' (totalBlocks c)).sum + blocksWithCodeword c i b

/-! ### Cells of a grid -/

/-- The three finders' top-left cells (43_grid.md R431). -/
def finderAt (size : Nat) : List (Nat × Nat) := [(0, 0), (size - 7, 0), (0, size - 7)]

/-- A dark cell of a finder: inside its 7×7 square and not on the light ring (43_grid.md R431). -/
def finderDark (size x y : Nat) : Prop :=
  ∃ f ∈ finderAt size, f.1 ≤ x ∧ x ≤ f.1 + 6 ∧ f.2 ≤ y ∧ y ≤ f.2 + 6 ∧
    max |(x : Int) - f.1 - 3| |(y : Int) - f.2 - 3| ≠ 2

/-- A dark timing cell (43_grid.md R432). -/
def timingDark (size x y : Nat) : Prop :=
  (y = 6 ∧ 8 ≤ x ∧ x ≤ size - 9 ∧ x % 2 = 0) ∨ (x = 6 ∧ 8 ≤ y ∧ y ≤ size - 9 ∧ y % 2 = 0)

/-- A dark cell of a grid with no alignment pattern (43_grid.md R431 to R433). -/
def functionDark (size x y : Nat) : Prop := finderDark size x y ∨ timingDark size x y ∨ (x = 8 ∧ y = size - 8)

/-- A cell in one of the three 8×8 finder regions (43_grid.md R431). -/
abbrev finderRegion (size x y : Nat) : Prop :=
  (x < 8 ∧ y < 8) ∨ (size - 8 ≤ x ∧ x < size ∧ y < 8) ∨ (x < 8 ∧ size - 8 ≤ y ∧ y < size)

/-- The grid has no alignment pattern: plane V is dark exactly on the dark cells of finders, timing lines and dark module, and
plane P is set exactly on the function patterns. -/
def PlainGrid (version size : Nat) (t : State) : Prop :=
  ∀ x y, x < size → y < size →
    (t.v.get x y = true ↔ functionDark size x y) ∧ (t.p.get x y = true ↔ functionCell version size x y)

/-- The version GRID_INIT uses, and its size (43_grid.md R430, R441). -/
def initVersion (s : State) : Nat := s.cfg.version.toNat
def initSize (s : State) : Nat := 17 + 4 * initVersion s

/-- Alignment coordinate i, one of `A0 .. A(ALN_CNT − 1)` (43_grid.md R435). -/
def isAlnCoord (s : State) (a : Nat) : Prop := ∃ i : Fin 7, i.val < s.cfg.alnCnt.toNat ∧ (s.cfg.aln[i]).toNat = a

/-- GRID_INIT accepts the configuration (43_grid.md R441). -/
def initAccepts (s : State) : Prop :=
  1 ≤ initVersion s ∧ initVersion s ≤ 40 ∧
    (2 ≤ initVersion s → ∀ a, isAlnCoord s a → 2 ≤ a ∧ a ≤ initSize s - 3)

/-- The candidate centres (cx, cy): all pairs of coordinates, cy the outer loop and cx the inner (43_grid.md R435). -/
def candidateCentres (s : State) : List (Nat × Nat) :=
  let coord i := (s.cfg.aln.toList.getD i 0).toNat
  (List.range s.cfg.alnCnt.toNat).flatMap fun i => (List.range s.cfg.alnCnt.toNat).map fun j => (coord j, coord i)

/-- A cell of the 5×5 pattern centred at c, and a dark one: every cell but the light ring (43_grid.md R434). -/
abbrev inPattern (c : Nat × Nat) (x y : Nat) : Prop := |(x : Int) - c.1| ≤ 2 ∧ |(y : Int) - c.2| ≤ 2
def patternDark (c : Nat × Nat) (x y : Nat) : Prop := max |(x : Int) - c.1| |(y : Int) - c.2| ≠ 1

/-- The centre is skipped once the listed patterns are placed (43_grid.md R436): in ALNMODE 1 exactly in a finder region; in
ALNMODE 0 when it is protected by then, that is on a finder region, a timing line, the dark module or a placed pattern. -/
abbrev centreSkipped (s : State) (placed : List (Nat × Nat)) (c : Nat × Nat) : Prop :=
  finderRegion (initSize s) c.1 c.2 ∨
    (s.cfg.ctrl.alnMode = false ∧
      (c.1 = 6 ∨ c.2 = 6 ∨ c = (8, initSize s - 8) ∨ ∃ q ∈ placed, inPattern q c.1 c.2))

/-- The centres whose patterns GRID_INIT places, the last placed first (43_grid.md R435, R436). -/
def placedCentres (s : State) : List (Nat × Nat) :=
  (candidateCentres s).foldl (fun placed c => if centreSkipped s placed c then placed else c :: placed) []

/-- The cells of format bit i, i = 0..14, around the top-left finder (46_format.md R603, copy 1). -/
def formatCopy1 : List (Nat × Nat) :=
  [(8, 0), (8, 1), (8, 2), (8, 3), (8, 4), (8, 5), (8, 7), (8, 8), (7, 8), (5, 8), (4, 8), (3, 8), (2, 8), (1, 8), (0, 8)]

/-- The cells of format bit i, i = 0..14, beside the other two finders (46_format.md R603, copy 2). -/
def formatCopy2 (size : Nat) : List (Nat × Nat) :=
  [(size - 1, 8), (size - 2, 8), (size - 3, 8), (size - 4, 8), (size - 5, 8), (size - 6, 8), (size - 7, 8), (size - 8, 8),
    (8, size - 7), (8, size - 6), (8, size - 5), (8, size - 4), (8, size - 3), (8, size - 2), (8, size - 1)]

/-- Plane `v'` holds format word f in both copies. -/
def holdsFormat (v' : Plane) (size : Nat) (f : BitVec 15) : Prop :=
  ∀ i, i < 15 →
    (∀ c, formatCopy1[i]? = some c → v'.get c.1 c.2 = f.getLsbD i) ∧
      (∀ c, (formatCopy2 size)[i]? = some c → v'.get c.1 c.2 = f.getLsbD i)

/-- A cell of one of the two format copies. -/
def formatCell (size x y : Nat) : Prop := (x, y) ∈ formatCopy1 ∨ (x, y) ∈ formatCopy2 size

/-- A cell of one of the two version blocks (46_format.md R610). -/
def versionCellOf (size x y : Nat) : Prop :=
  (size - 11 ≤ x ∧ x ≤ size - 9 ∧ y ≤ 5) ∨ (size - 11 ≤ y ∧ y ≤ size - 9 ∧ x ≤ 5)

/-- Bit i of the content sequence (44_placement.md R501): byte i div 8 of IBUF, most significant bit first, 0 past its
end. -/
def contentAt (s : State) (i : Nat) : Bool :=
  if i < 8 * s.cwCount.toNat then (bufByte s .ibuf (i / 8)).getLsbD (7 - i % 8) else false

/-- The right column of pair q of the walk (44_placement.md R500): (S−1, S−2), …, (8, 7), then (5, 4), (3, 2), (1, 0). -/
def pairColumn (size q : Nat) : Nat := if 8 ≤ size - 1 - 2 * q then size - 1 - 2 * q else size - 2 - 2 * q

/-! ### Penalties, in the words of 45_mask.md section 2 -/

/-- What the maximal runs of a line add to N1: 3 + (L − 5) for each length L of at least 5 (45_mask.md R532). -/
def lineRunPenalty (line : List Bool) : Nat :=
  (((runs line).filter fun len => decide (5 ≤ len)).map fun len => 3 + (len - 5)).sum

/-- `PAT`: dark, light, dark, dark, dark, light, dark, light, light, light, light (45_mask.md R534). -/
def patternPat : List Bool := [true, false, true, true, true, false, true, false, false, false, false]

/-- `ALT`: PAT with every colour inverted in PATMODE 0, PAT read right to left in PATMODE 1 (45_mask.md R534). -/
def patternAlt (patMode : Bool) : List Bool := if patMode then patternPat.reverse else patternPat.map not

/-- The eleven cells `line i .. line (i + 10)` are PAT or ALT (45_mask.md R534). -/
abbrev windowMatches (patMode : Bool) (line : Nat → Bool) (i : Nat) : Prop :=
  (List.range 11).map (fun k => line (i + k)) = patternPat ∨ (List.range 11).map (fun k => line (i + k)) = patternAlt patMode

/-- The number of dark cells of the symbol (45_mask.md R535). -/
def darkCells (w : Plane) (size : Nat) : Nat :=
  ((Finset.range size ×ˢ Finset.range size).filter fun c => w.get c.1 c.2 = true).card

/-! ### The pipeline of RUN as commands (47_control.md R651) -/

/-- The command of each stage of RUN; none when the stage is skipped. -/
def stageCommands : List (State → Option Instr) :=
  [fun _ => some .rsAll, fun _ => some .ilv, fun _ => some .gridInit, fun _ => some .place,
    fun s => if 7 ≤ s.gridInfo.gver.toNat then some .vinfoWr else none, fun _ => some .maskAuto]

/-- The state a command leaves. -/
def after (i : Instr) (s : State) : State :=
  match exec i s with
  | .next t => t
  | .fault _ => s
  | .refused _ => s

/-- Run the commands of the stages one after the other, each on the state the one before left, until one ends with STATUS.ERR:
how many stages completed, and the state then. -/
def runCommands : List (State → Option Instr) → Nat → State → Nat × State
  | [], n, s => (n, s)
  | stage :: rest, n, s =>
    match stage s with
    | none => runCommands rest (n + 1) s
    | some i => if (after i s).status.err then (n, after i s) else runCommands rest (n + 1) (after i s)

/-! ### Host accesses -/

/-- The next event is a host read, or a host write, and `rst` is not asserted. -/
def readIsNext (s : State) (a : HAddr) : Prop := s.rst = false ∧ ∃ rest, s.inputs = .read a :: rest
def writeIsNext (s : State) (a : HAddr) (d : Word) : Prop := s.rst = false ∧ ∃ rest, s.inputs = .write a d :: rest

/-- The access in hand is answered so, and nothing else changes. -/
def answered (s : State) (r : Answer) : State := { taken s with answer := some r }

def misaligned (a : HAddr) : Prop := a.toNat % 4 ≠ 0

/-- The unassigned addresses (20_memory.md R153). -/
def unassigned (a : HAddr) : Prop :=
  a.toNat = 0x6C ∨ (0x90 ≤ a.toNat ∧ a.toNat ≤ 0x3FF) ∨ (0x500 ≤ a.toNat ∧ a.toNat ≤ 0xFFF) ∨
    (0x4000 ≤ a.toNat ∧ a.toNat ≤ 0x7FFF) ∨ 0xC000 ≤ a.toNat

/-- An address of the register page or of a window (20_memory.md R152). -/
def mapped (a : HAddr) : Prop := ¬ misaligned a ∧ ¬ unassigned a

/-- Each writable register but `STATUS` and `CMD`, with the bits it stores (10_state.md R53, R57 to R67, R69). -/
def rwRegisters : List (HAddr × Word) :=
  [(0x004, 0xF), (0x014, 0x3F), (0x018, 0x3), (0x01C, 0xFFFF), (0x020, 0xFFFF), (0x024, 0xFF), (0x028, 0x7),
    (0x02C, 0xFFFFFFFF), (0x030, 0xFFFFFF), (0x034, 0x3FFFF), (0x038, 0xFFF), (0x03C, 0xFFF), (0x044, 0x1FFF)]

/-- What an idle read of each register gives: its offset, and its fields at their bit positions (10_state.md R52 to R79). -/
def registerTable (s : State) : List (Nat × Nat) :=
  let aln (i : Fin 7) := (s.cfg.aln[i]).toNat
  [(0x000, 0x51524301),
    (0x004, s.cfg.ctrl.ie.toNat + 2 * s.cfg.ctrl.alnMode.toNat + 4 * s.cfg.ctrl.patMode.toNat + 8 * s.cfg.ctrl.balMode.toNat),
    (0x008, s.engine.isBusy.toNat + 2 * s.status.done.toNat + 4 * s.status.err.toNat + 8 * s.status.gv.toNat +
      16 * s.status.masked.toNat + 32 * s.status.werr.toNat + 256 * s.status.errcode.toNat),
    (0x00C, s.cmd.toNat), (0x010, s.result.toNat), (0x014, s.cfg.version.toNat), (0x018, s.cfg.eccl.toNat),
    (0x01C, s.cfg.g0Blocks.toNat + 256 * s.cfg.g0Dcw.toNat), (0x020, s.cfg.g1Blocks.toNat + 256 * s.cfg.g1Dcw.toNat),
    (0x024, s.cfg.necc.toNat), (0x028, s.cfg.alnCnt.toNat),
    (0x02C, aln 0 + 2 ^ 8 * aln 1 + 2 ^ 16 * aln 2 + 2 ^ 24 * aln 3), (0x030, aln 4 + 2 ^ 8 * aln 5 + 2 ^ 16 * aln 6),
    (0x034, s.cfg.vinfo.toNat), (0x038, s.cfg.rsSrc.toNat), (0x03C, s.cfg.rsDst.toNat)] ++
  [(0x040, s.genDeg.toNat), (0x044, s.cwCount.toNat), (0x048, s.placed.toNat), (0x04C, s.remBits.toNat),
    (0x050, s.gridInfo.size.toNat + 256 * s.gridInfo.gver.toNat), (0x054, s.fmt.toNat), (0x058, s.maskId.toNat),
    (0x05C, s.pens.pen1.toNat), (0x060, s.pens.pen2.toNat), (0x064, s.pens.pen3.toNat), (0x068, s.pens.pen4.toNat)] ++
  (List.finRange 8).map fun m => (0x070 + 4 * m.val, (s.scores[m]).toNat)

/-- The read-only locations (10_state.md R52, R56, R68, R70 to R79; 20_memory.md R154, R156). -/
def readOnly (a : HAddr) : Prop :=
  a.toNat % 4 = 0 ∧
    (a.toNat = 0 ∨ a.toNat = 0x10 ∨ a.toNat = 0x40 ∨ (0x48 ≤ a.toNat ∧ a.toNat ≤ 0x68) ∨
      (0x70 ≤ a.toNat ∧ a.toNat ≤ 0x8C) ∨ (0x400 ≤ a.toNat ∧ a.toNat ≤ 0x4FF) ∨ (0x8000 ≤ a.toNat ∧ a.toNat ≤ 0xBFFF))

/-- The value of a multiple of the BCH generator 0x537 = 10100110111₂, for a multiplier of 5 bits (46_format.md R600). -/
def bchMultiple (q : Nat) : Nat :=
  (List.range 5).foldl (fun acc i => if q.testBit i then acc ^^^ (0x537 <<< i) else acc) 0

end Sys2Proof.Claims

open Sys2Proof Sys2Proof.Machine Sys2Proof.Claims

/-! ## Encoding -/

/-- Decoding the word of a well-formed command gives the command back, with every operand (30_encoding.md R208, R209, R213). -/
def Obligations.DecodeOfEncode : Prop := ∀ i : Instr, i.WellFormed → decode (encode i) = .ok i

/-- A word decodes exactly when its opcode is a row's and its reserved bits are 0, that is when it has the fixed bits of some
row of opcode_table.json; and it then is the word of the well-formed command it decodes to, so no two words have one meaning
(30_encoding.md R200, R208, R209). -/
def Obligations.DecodeAcceptsExactlyTheTable : Prop :=
  ∀ c : Word, ((∃ i, decode c = .ok i) ↔ ∃ row ∈ commandRows, matchesRow c row) ∧
    ∀ i, decode c = .ok i → i.WellFormed ∧ encode i = c

/-- The encoding examples of 30_encoding.md R215, which the spec derives from R202, R205 and R208. -/
def Obligations.EncodingExamplesDecode : Prop :=
  decode 0x010053CA = .ok (.gfMul 0x53 0xCA) ∧ decode 0x02000100 = .ok (.gfDiv 1 0) ∧
    decode 0x10000007 = .ok (.rsGen 7) ∧ decode 0x31030D08 = .ok (.gridWr 8 13 true true) ∧
    decode 0x32000014 = .ok (.gridRd 20 0) ∧ decode 0x51000003 = .ok (.maskApply 3) ∧ decode 0x70000000 = .ok .run ∧
    decode 0x01FF0000 = .error .reservedField ∧ decode 0x80000000 = .error .reservedOpcode

/-! ## The step -/

/-- On its turn, an engine busy with a word that decodes runs that command, on the state with the turn taken off the
schedule (30_encoding.md R209, 60_exceptions.md R711; the schedule is the model's, log 5). -/
def Obligations.StepRunsDecodedCommand : Prop :=
  ∀ (s : State) (c : Word) (i : Instr), s.rst = false → s.engine = .busy c → engineIsNext s → decode c = .ok i →
    step s = exec i (taken s)

/-- A word with a reserved opcode or a nonzero reserved field completes with ILLEGAL_CMD and changes no state but STATUS
(30_encoding.md R210, 60_exceptions.md R700). That this is the step when no event is pending is the model's schedule
(log 5). -/
def Obligations.IllegalWordRaisesIllegalCmd : Prop :=
  ∀ (s : State) (c : Word), s.rst = false → s.engine = .busy c → engineIsNext s → (∀ row ∈ commandRows, ¬ matchesRow c row) →
    step s = .next (failed 1 (taken s))

/-- Every command completes: the engine is idle, DONE is set, ERR is set exactly with a code of 60_exceptions.md R700, and
WERR and the `CMD` read-back stay (60_exceptions.md R711). -/
def Obligations.EveryCommandCompletes : Prop :=
  ∀ (i : Instr) (s : State), ∃ t, exec i s = .next t ∧ t.engine = .idle ∧ t.status.done = true ∧
    ((t.status.err = false ∧ t.status.errcode = 0) ∨
      (t.status.err = true ∧ 1 ≤ t.status.errcode.toNat ∧ t.status.errcode.toNat ≤ 10)) ∧
    t.status.werr = s.status.werr ∧ t.cmd = s.cmd

/-- Unless reset intervenes, a busy engine completes once the pending events are taken, and sets DONE
(70_reset_and_hazards.md R785). That the engine has its turn as soon as no event is pending is the model's choice (log 5). -/
def Obligations.BusyEngineCompletes : Prop :=
  ∀ (s : State) (c : Word), s.rst = false → s.engine = .busy c → (∀ b, Input.rst b ∉ s.inputs) →
    ∃ k t, k ≤ s.inputs.length + 1 ∧ Sys2Proof.core.run k s = .next t ∧ t.engine = .idle ∧ t.status.done = true

/-- A command that raises an error changes no state but STATUS. RUN is the exception: it stops at the stage whose command, on
the state u that the n completed stages left, raises the error; it keeps u, writes n to RESULT and reports that error
(60_exceptions.md R701, 47_control.md R651). -/
def Obligations.ErrorChangesOnlyStatus : Prop :=
  (∀ (i : Instr) (s t : State), i ≠ .run → exec i s = .next t → t.status.err = true → t = failed t.status.errcode s) ∧
    ∀ s t : State, exec .run s = .next t → t.status.err = true →
      ∃ n u stage i, n < 6 ∧ runCommands (stageCommands.take n) 0 s = (n, u) ∧
        stageCommands[n]? = some stage ∧ stage u = some i ∧ exec i u = .next (failed t.status.errcode u) ∧
        t = failed t.status.errcode { u with result := BitVec.ofNat 32 n }

/-- The interrupt output is CTRL.IE and STATUS.DONE: after any completion it is IE, and acceptance drops it
(60_exceptions.md R720). -/
def Obligations.IrqIsEnableAndDone : Prop :=
  (∀ s : State, irq s = true ↔ s.cfg.ctrl.ie = true ∧ s.status.done = true) ∧
    (∀ (i : Instr) (s t : State), exec i s = .next t → irq t = s.cfg.ctrl.ie) ∧
    ∀ (c : Word) (s : State), irq (accept c s) = false

/-! ## Invariants and whole-machine rules -/

/-- The state after reset meets the invariant. -/
def Obligations.ResetMeetsInvariant : Prop := State.reset.Inv

/-- Every step keeps the invariant: flags, generator, grid geometry and protection, and buffer form (10_state.md R54, R68,
R72, R81, R85 to R88). -/
def Obligations.StepKeepsInvariant : Prop := ∀ s t : State, s.Inv → step s = .next t → t.Inv

/-- No command changes a configuration register, DBUF, the schedule or the reset pin (10_state.md R82; 20_memory.md R171). -/
def Obligations.CommandsLeaveHostState : Prop :=
  ∀ (i : Instr) (s t : State), exec i s = .next t →
    t.cfg = s.cfg ∧ (∀ j, j < 4096 → bufByte t .dbuf j = bufByte s .dbuf j) ∧
      t.inputs = s.inputs ∧ t.answer = s.answer ∧ t.rst = s.rst ∧ t.epoch = s.epoch ∧ t.draws = s.draws

/-- Within one grid lifetime protection only grows, and only GRID_RSV adds to it (10_state.md R87). -/
def Obligations.ProtectionOnlyGrows : Prop :=
  ∀ (i : Instr) (s t : State), i ≠ .gridInit → i ≠ .run → exec i s = .next t →
    ∀ x y, t.p.get x y = true ↔ s.p.get x y = true ∨
      (i = .gridRsv x y ∧ t.status.err = false ∧ x < Config.gridDim ∧ y < Config.gridDim)

/-! ## GF(256) -/

/-- NOP completes and changes nothing but STATUS (47_control.md R650). -/
def Obligations.NopOnlyCompletes : Prop := ∀ s : State, exec .nop s = .next (succeeded s)

/-- GF_MUL puts the product of its operands, as polynomials modulo x⁸+x⁴+x³+x²+1, into RESULT, and changes nothing else
(40_gf.md R300, R310). -/
def Obligations.GfMulIsPolynomialProduct : Prop :=
  ∀ (a b : Byte) (s : State),
    exec (.gfMul a b) s = .next (succeeded { s with result := (polyProduct a b).setWidth 32 })

/-- The field laws of 40_gf.md R306, which the spec derives from R301, R303 and R304. -/
def Obligations.FieldLaws : Prop :=
  (∀ a b, gfMul a b = gfMul b a) ∧ (∀ a b c, gfMul (gfMul a b) c = gfMul a (gfMul b c)) ∧ (∀ a, gfMul a 1 = a) ∧
    (∀ a, gfMul a 0 = 0) ∧ (∀ a b c, gfMul a (gfAdd b c) = gfAdd (gfMul a b) (gfMul a c)) ∧
    (∀ a b, b ≠ 0 → gfMul (gfDiv a b) b = a ∧ gfDiv (gfMul a b) b = a) ∧
    (∀ a b, a ≠ 0 → b ≠ 0 → gfMul a b ≠ 0)

/-- GF_DIV by 0 raises DIV_ZERO; otherwise RESULT is the element whose product with the divisor is the dividend, and nothing
else changes (40_gf.md R311). -/
def Obligations.GfDivIsInverseOfProduct : Prop :=
  ∀ (a b : Byte) (s : State),
    (b = 0 → exec (.gfDiv a b) s = .next (failed 2 s)) ∧
      (b ≠ 0 → ∃ q, polyProduct q b = a ∧ exec (.gfDiv a b) s = .next (succeeded { s with result := q.setWidth 32 }))

/-- GF_EXP puts the e-th power of α into RESULT; GF_LOG of 0 raises LOG_ZERO, and otherwise RESULT is the exponent in 0..254
of its argument; nothing else changes (40_gf.md R301, R312, R313). -/
def Obligations.GfExpAndLogAreInverse : Prop :=
  (∀ (e : Nat) (s : State), e < 256 →
      exec (.gfExp e) s = .next (succeeded { s with result := (alphaPower e).setWidth 32 })) ∧
    ∀ (a : Byte) (s : State),
      (a = 0 → exec (.gfLog a) s = .next (failed 3 s)) ∧
        (a ≠ 0 → ∃ n, n ≤ 254 ∧ alphaPower n = a ∧
          exec (.gfLog a) s = .next (succeeded { s with result := BitVec.ofNat 32 n }))

/-! ## Reed-Solomon and interleaving -/

/-- RS_GEN n puts the monic polynomial of degree n with the roots α⁰ to αⁿ⁻¹ into GEN, 0 above it, and n into GEN_DEG, and
changes nothing else; n outside 1..30 raises INVALID_CONFIG (41_rs.md R352, R360). -/
def Obligations.RsGenBuildsTheGenerator : Prop :=
  ∀ (n : Nat) (s : State),
    (n < 1 ∨ 30 < n → exec (.rsGen n) s = .next (failed 4 s)) ∧
      (1 ≤ n → n ≤ 30 → ∃ g : Vector Byte 31,
        exec (.rsGen n) s = .next (succeeded { s with gen := g, genDeg := BitVec.ofNat 8 n }) ∧
          g[0] = 1 ∧ (∀ i : Fin 31, n < i.val → g[i] = 0) ∧
          ∀ i, i < n → evalPoly (g.toList.take (n + 1)) (alphaPower i) = 0)

/-- The systematic property: dividing D ++ rs_rem(D, gen(n)) by gen(n), with the loop of R353 and no appended zeros, leaves n
zero bytes (41_rs.md R354, which the spec derives from R353). -/
def Obligations.RemainderMakesCodewordDivisible : Prop :=
  ∀ (n : Nat) (data : List Byte), 1 ≤ n → n ≤ 30 →
    (divide (genPoly n) (data ++ rsRem data (genPoly n)) data.length).drop data.length = List.replicate n 0

/-- RS_ENC raises NO_GEN, then BAD_RANGE; otherwise it writes the n bytes of the remainder at RS_DST in EBUF, n = GEN_DEG, and
changes no other byte and no register (41_rs.md R361). -/
def Obligations.RsEncWritesTheRemainder : Prop :=
  ∀ (k : Nat) (s : State),
    (s.genDeg = 0 → exec (.rsEnc k) s = .next (failed 5 s)) ∧
      (s.genDeg ≠ 0 → 4096 < s.cfg.rsSrc.toNat + k ∨ 4096 < s.cfg.rsDst.toNat + s.genDeg.toNat →
        exec (.rsEnc k) s = .next (failed 6 s)) ∧
      (s.GenInv → s.genDeg ≠ 0 → s.cfg.rsSrc.toNat + k ≤ 4096 → s.cfg.rsDst.toNat + s.genDeg.toNat ≤ 4096 →
        ∃ t, exec (.rsEnc k) s = .next t ∧ t = succeeded { s with mem := t.mem } ∧
          (rsRem (bufBytes s .dbuf s.cfg.rsSrc.toNat k) (s.gen.toList.take (s.genDeg.toNat + 1))).length =
            s.genDeg.toNat ∧
          bufBytes t .ebuf s.cfg.rsDst.toNat s.genDeg.toNat =
            rsRem (bufBytes s .dbuf s.cfg.rsSrc.toNat k) (s.gen.toList.take (s.genDeg.toNat + 1)) ∧
          ∀ a, ¬ (0x2000 + s.cfg.rsDst.toNat ≤ a ∧ a < 0x2000 + s.cfg.rsDst.toNat + s.genDeg.toNat) →
            byteAt t a = byteAt s a)

/-- RS_ALL raises INVALID_CONFIG on a bad profile; otherwise it builds the generator of degree NECC and writes the ECC
codewords of block b at b × NECC in EBUF, for every block, and changes no other byte and no other register (41_rs.md R350,
R351, R362). -/
def Obligations.RsAllEncodesEveryBlock : Prop :=
  ∀ s : State,
    (¬ profileOk s.cfg → exec .rsAll s = .next (failed 4 s)) ∧
      (profileOk s.cfg →
        ∃ t, exec .rsAll s = .next t ∧ t = succeeded { s with mem := t.mem, gen := t.gen, genDeg := s.cfg.necc } ∧
          (∀ i : Fin 31, t.gen[i] = if i.val ≤ s.cfg.necc.toNat then (genPoly s.cfg.necc.toNat).getD i.val 0 else 0) ∧
          (∀ b, b < totalBlocks s.cfg →
            bufBytes t .ebuf (b * s.cfg.necc.toNat) s.cfg.necc.toNat =
              rsRem (bufBytes s .dbuf (blockStart s.cfg b) (blockLen s.cfg b)) (genPoly s.cfg.necc.toNat)) ∧
          ∀ a, ¬ (0x2000 ≤ a ∧ a < 0x2000 + totalBlocks s.cfg * s.cfg.necc.toNat) → byteAt t a = byteAt s a)

/-- ILV raises INVALID_CONFIG on a bad profile; otherwise it writes TD + TE codewords into IBUF and their number into CW_COUNT,
and changes no other byte and no other register (42_interleave.md R400, R410). -/
def Obligations.IlvWritesTheSequence : Prop :=
  ∀ s : State,
    (¬ profileOk s.cfg → exec .ilv s = .next (failed 4 s)) ∧
      (profileOk s.cfg →
        ∃ t, exec .ilv s = .next t ∧
          t = succeeded { s with mem := t.mem, cwCount := BitVec.ofNat 13 (totalData s.cfg + totalEcc s.cfg) } ∧
          t.cwCount.toNat = totalData s.cfg + totalEcc s.cfg ∧
          bufBytes t .ibuf 0 (totalData s.cfg + totalEcc s.cfg) = interleaved s ∧
          ∀ a, ¬ (0x3000 ≤ a ∧ a < 0x3000 + (totalData s.cfg + totalEcc s.cfg)) → byteAt t a = byteAt s a)

/-- Where each codeword stands in the sequence: data codeword i of block b after every codeword of earlier rounds and earlier
blocks, then ECC codeword i of block b at TD + i × TB + b; nothing else is in it. The length TD + TE is what 42_interleave.md
R400 marks derived, and the places are derived from its loop. -/
def Obligations.InterleavingPlaces : Prop :=
  ∀ s : State,
    (interleaved s).length = totalData s.cfg + totalEcc s.cfg ∧
      (∀ b i, b < totalBlocks s.cfg → i < blockLen s.cfg b →
        (interleaved s)[dataPlace s.cfg i b]? = some (bufByte s .dbuf (blockStart s.cfg b + i))) ∧
      ∀ b i, b < totalBlocks s.cfg → i < s.cfg.necc.toNat →
        (interleaved s)[totalData s.cfg + i * totalBlocks s.cfg + b]? =
          some (bufByte s .ebuf (b * s.cfg.necc.toNat + i))

/-! ## The grid -/

/-- GRID_INIT raises INVALID_CONFIG on a bad version or alignment coordinate; otherwise it leaves a grid of that version, with
every cell outside it 0 and every function pattern protected, and changes no other register (43_grid.md R441). -/
def Obligations.GridInitBuildsGuardedGrid : Prop :=
  ∀ s : State,
    (¬ initAccepts s → exec .gridInit s = .next (failed 4 s)) ∧
      (initAccepts s →
        ∃ t, exec .gridInit s = .next t ∧
          t = succeeded { s with
            v := t.v, p := t.p, gridInfo := ⟨BitVec.ofNat 8 (initSize s), s.cfg.version⟩
            status := { s.status with gv := true, masked := false } } ∧
          gridSize t = initSize s ∧
          (∀ x y, initSize s ≤ x ∨ initSize s ≤ y → t.v.get x y = false ∧ t.p.get x y = false) ∧
          ∀ x y, functionCell (initVersion s) (initSize s) x y → t.p.get x y = true)

/-- A grid without alignment patterns (version 1, or no coordinates) is dark exactly on the dark cells of the finders, the
timing lines and the dark module, and protected exactly on the function patterns (43_grid.md R431 to R433, R437, R438, R441). -/
def Obligations.GridInitPlainPatterns : Prop :=
  ∀ s : State, initAccepts s → initVersion s = 1 ∨ s.cfg.alnCnt = 0 →
    ∃ t, exec .gridInit s = .next t ∧ PlainGrid (initVersion s) (initSize s) t

/-- With one coordinate c, outside the finder region, GRID_INIT places the one pattern centred at (c, c) in either mode, and
leaves every other cell as without it (43_grid.md R434, R435, R441). -/
def Obligations.GridInitOneAlignmentPattern : Prop :=
  ∀ (s : State) (c : Nat), initAccepts s → 2 ≤ initVersion s → s.cfg.alnCnt = 1 → (s.cfg.aln[0]).toNat = c → 8 ≤ c →
    ∃ t, exec .gridInit s = .next t ∧
      ∀ x y, x < initSize s → y < initSize s →
        (|(x : Int) - c| ≤ 2 ∧ |(y : Int) - c| ≤ 2 →
          (t.v.get x y = true ↔ max |(x : Int) - c| |(y : Int) - c| ≠ 1) ∧ t.p.get x y = true) ∧
        (¬ (|(x : Int) - c| ≤ 2 ∧ |(y : Int) - c| ≤ 2) →
          (t.v.get x y = true ↔ functionDark (initSize s) x y) ∧
            (t.p.get x y = true ↔ functionCell (initVersion s) (initSize s) x y))

/-- The alignment patterns of either mode (43_grid.md R434 to R436): a cell under a placed pattern is protected and has the
value the last pattern placed over it gives; every other cell is as in a grid without alignment patterns. With ALNMODE = 1
a centre is skipped exactly when it lies in a finder region, so the protected cells are those of the function patterns and
those around every other centre. With ALNMODE = 0 a centre on a finder region or a timing line is skipped. -/
def Obligations.AlignmentSkipRules : Prop :=
  ∀ s : State, initAccepts s → 2 ≤ initVersion s →
    ∃ t, exec .gridInit s = .next t ∧
      (∀ x y, x < initSize s → y < initSize s →
        (∀ c, (placedCentres s).find? (fun c => decide (inPattern c x y)) = some c →
          (t.v.get x y = true ↔ patternDark c x y) ∧ t.p.get x y = true) ∧
        ((∀ c ∈ placedCentres s, ¬ inPattern c x y) →
          (t.v.get x y = true ↔ functionDark (initSize s) x y) ∧
            (t.p.get x y = true ↔ functionCell (initVersion s) (initSize s) x y))) ∧
      (s.cfg.ctrl.alnMode = true →
        (∀ x y, x < initSize s → y < initSize s →
          (t.p.get x y = true ↔ functionCell (initVersion s) (initSize s) x y ∨
            ∃ cx cy, isAlnCoord s cx ∧ isAlnCoord s cy ∧ ¬ finderRegion (initSize s) cx cy ∧ inPattern (cx, cy) x y) ∧
          ((∀ cx cy, isAlnCoord s cx → isAlnCoord s cy → inPattern (cx, cy) x y → finderRegion (initSize s) cx cy) →
            (t.v.get x y = true ↔ functionDark (initSize s) x y))) ∧
        ((∀ cx cy, isAlnCoord s cx → isAlnCoord s cy → finderRegion (initSize s) cx cy) →
          PlainGrid (initVersion s) (initSize s) t)) ∧
      (s.cfg.ctrl.alnMode = false →
        (∀ cx cy, isAlnCoord s cx → isAlnCoord s cy → finderRegion (initSize s) cx cy ∨ cx = 6 ∨ cy = 6) →
        PlainGrid (initVersion s) (initSize s) t)

/-- GRID_WR: NO_GRID, then BAD_COORD; without force a protected cell is left and RESULT is 0; otherwise that one cell takes
the value and RESULT is 1; protection and every other cell and register stay (43_grid.md R440, R442). -/
def Obligations.GridWrIsGuarded : Prop :=
  ∀ (x y : Nat) (d f : Bool) (s : State), s.GridInv →
    (s.status.gv = false → exec (.gridWr x y d f) s = .next (failed 7 s)) ∧
      (s.status.gv = true → gridSize s ≤ x ∨ gridSize s ≤ y → exec (.gridWr x y d f) s = .next (failed 8 s)) ∧
      (s.status.gv = true → x < gridSize s → y < gridSize s → s.p.get x y = true → f = false →
        exec (.gridWr x y d f) s = .next (succeeded { s with result := 0 })) ∧
      (s.status.gv = true → x < gridSize s → y < gridSize s → s.p.get x y = false ∨ f = true →
        ∃ t, exec (.gridWr x y d f) s = .next t ∧ t = succeeded { s with v := t.v, result := 1 } ∧
          ∀ i j, t.v.get i j = if i = x ∧ j = y then d else s.v.get i j)

/-- GRID_RD: NO_GRID, then BAD_COORD; otherwise RESULT is 2·P + V of the cell and nothing else changes. GRID_RSV: the same
checks; otherwise that one cell becomes protected and nothing else changes (43_grid.md R443, R444). -/
def Obligations.GridRdReadsAndGridRsvProtects : Prop :=
  ∀ (x y : Nat) (s : State), s.GridInv →
    (s.status.gv = false → exec (.gridRd x y) s = .next (failed 7 s) ∧ exec (.gridRsv x y) s = .next (failed 7 s)) ∧
      (s.status.gv = true → gridSize s ≤ x ∨ gridSize s ≤ y →
        exec (.gridRd x y) s = .next (failed 8 s) ∧ exec (.gridRsv x y) s = .next (failed 8 s)) ∧
      (s.status.gv = true → x < gridSize s → y < gridSize s →
        exec (.gridRd x y) s = .next (succeeded
          { s with result := BitVec.ofNat 32 (2 * (s.p.get x y).toNat + (s.v.get x y).toNat) }) ∧
        ∃ t, exec (.gridRsv x y) s = .next t ∧ t = succeeded { s with p := t.p } ∧
          ∀ i j, t.p.get i j = if i = x ∧ j = y then true else s.p.get i j)

/-! ## Placement -/

/-- The walk of a symbol (44_placement.md R500): pair q takes columns c and c − 1, upward when q is even and downward when it is
odd, the right cell of each row before the left. That it visits every cell but those of column 6, each once, is what R500
marks derived. -/
def Obligations.ZigzagIsTheBoustrophedonWalk : Prop :=
  ∀ v, 1 ≤ v → v ≤ 40 →
    let size := 17 + 4 * v
    (∀ q t, 2 * q < size - 1 → t < size →
      (zigzag size)[2 * size * q + 2 * t]? = some (pairColumn size q, if q % 2 = 0 then size - 1 - t else t) ∧
        (zigzag size)[2 * size * q + 2 * t + 1]? =
          some (pairColumn size q - 1, if q % 2 = 0 then size - 1 - t else t)) ∧
      (zigzag size).length = size * (size - 1) ∧ (zigzag size).Nodup ∧
      ∀ x y, (x, y) ∈ zigzag size ↔ x < size ∧ y < size ∧ x ≠ 6

/-- PLACE raises NO_GRID, SEQ, BAD_RANGE or LEN_MISMATCH, in that order (44_placement.md R510, 60_exceptions.md R704). -/
def Obligations.PlaceChecksInOrder : Prop :=
  ∀ s : State,
    (s.status.gv = false → exec .place s = .next (failed 7 s)) ∧
      (s.status.gv = true → s.status.masked = true → exec .place s = .next (failed 10 s)) ∧
      (s.status.gv = true → s.status.masked = false → 4096 < s.cwCount.toNat → exec .place s = .next (failed 6 s)) ∧
      (s.status.gv = true → s.status.masked = false → s.cwCount.toNat ≤ 4096 →
        unprotectedCount s.p (gridSize s) < 8 * s.cwCount.toNat → exec .place s = .next (failed 9 s))

/-- PLACE writes the content bits into the unprotected cells in the order of the walk, 0 after the last, and leaves every other
cell; nothing else changes (44_placement.md R501, R502, R510). That PLACED and REMBITS add up to the number U of unprotected
cells, and that the walk misses none, the spec derives (R502, R511). -/
def Obligations.PlaceWritesContentInOrder : Prop :=
  ∀ s : State, s.GridInv → s.status.gv = true → s.status.masked = false → s.cwCount.toNat ≤ 4096 →
    8 * s.cwCount.toNat ≤ unprotectedCount s.p (gridSize s) →
    ∃ t, exec .place s = .next t ∧ t = succeeded { s with v := t.v, placed := t.placed, remBits := t.remBits } ∧
      t.placed.toNat = 8 * s.cwCount.toNat ∧ t.placed.toNat + t.remBits.toNat = unprotectedCount s.p (gridSize s) ∧
      ((zigzag (gridSize s)).filter fun c => !s.p.get c.1 c.2).map (fun c => t.v.get c.1 c.2) =
        (List.range (unprotectedCount s.p (gridSize s))).map (contentAt s) ∧
      ∀ x y, s.p.get x y = true ∨ gridSize s ≤ x ∨ gridSize s ≤ y → t.v.get x y = s.v.get x y

/-! ## Masking -/

/-- The candidate grid: the format word of the level and mask in both copies; every other unprotected cell of the symbol
inverted exactly where the predicate holds; every other cell as it was (45_mask.md R531). -/
def Obligations.CandidateCells : Prop :=
  ∀ (s : State) (m : Nat), s.GridInv → s.status.gv = true → m < 8 →
    holdsFormat (candidate s m) (gridSize s) (fmtWord s.cfg.eccl (BitVec.ofNat 3 m)) ∧
      ∀ x y, ¬ formatCell (gridSize s) x y →
        (x < gridSize s ∧ y < gridSize s ∧ s.p.get x y = false ∧ maskPred m y x = true →
          (candidate s m).get x y = !s.v.get x y) ∧
        (¬ (x < gridSize s ∧ y < gridSize s ∧ s.p.get x y = false ∧ maskPred m y x = true) →
          (candidate s m).get x y = s.v.get x y)

/-- MASK_SCORE: INVALID_CONFIG for m ≥ 8, NO_GRID, SEQ; otherwise the four penalties of candidate m go to PEN1 to PEN4 and their
sum to its SCORE register, and nothing else changes (45_mask.md R536, R541). -/
def Obligations.MaskScoreRecordsPenalties : Prop :=
  ∀ (m : Nat) (s : State),
    (8 ≤ m → exec (.maskScore m) s = .next (failed 4 s)) ∧
      (m < 8 → s.status.gv = false → exec (.maskScore m) s = .next (failed 7 s)) ∧
      (m < 8 → s.status.gv = true → s.status.masked = true → exec (.maskScore m) s = .next (failed 10 s)) ∧
      ∀ h : m < 8, s.status.gv = true → s.status.masked = false →
        let w := candidate s m
        let n1 := penaltyRuns w (gridSize s)
        let n2 := penaltyBlocks w (gridSize s)
        let n3 := penaltyPatterns s.cfg.ctrl.patMode w (gridSize s)
        let n4 := penaltyBalance s.cfg.ctrl.balMode w (gridSize s)
        exec (.maskScore m) s = .next (succeeded { s with
          pens := ⟨BitVec.ofNat 32 n1, BitVec.ofNat 32 n2, BitVec.ofNat 32 n3, BitVec.ofNat 32 n4⟩
          scores := s.scores.set m (BitVec.ofNat 32 (n1 + n2 + n3 + n4)) h })

/-- MASK_APPLY: INVALID_CONFIG for m ≥ 8, NO_GRID, SEQ; otherwise V becomes candidate m, FMT its format word, MASK_ID m and
MASKED 1, and nothing else changes (45_mask.md R542). -/
def Obligations.MaskApplyPutsTheCandidate : Prop :=
  ∀ (m : Nat) (s : State),
    (8 ≤ m → exec (.maskApply m) s = .next (failed 4 s)) ∧
      (m < 8 → s.status.gv = false → exec (.maskApply m) s = .next (failed 7 s)) ∧
      (m < 8 → s.status.gv = true → s.status.masked = true → exec (.maskApply m) s = .next (failed 10 s)) ∧
      (m < 8 → s.status.gv = true → s.status.masked = false →
        exec (.maskApply m) s = .next (succeeded { s with
          v := candidate s m
          fmt := fmtWord s.cfg.eccl (BitVec.ofNat 3 m)
          maskId := BitVec.ofNat 3 m
          status := { s.status with masked := true } }))

/-- MASK_AUTO: NO_GRID, SEQ; otherwise it applies the candidate of smallest total, the lowest id on a tie, records every total
in SCORE0 to SCORE7 and the chosen one's penalties in PEN1 to PEN4, and changes nothing else (45_mask.md R537, R543). -/
def Obligations.MaskAutoPicksLowestScore : Prop :=
  ∀ s : State,
    (s.status.gv = false → exec .maskAuto s = .next (failed 7 s)) ∧
      (s.status.gv = true → s.status.masked = true → exec .maskAuto s = .next (failed 10 s)) ∧
      (s.status.gv = true → s.status.masked = false →
        ∃ best t, best < 8 ∧ (∀ m, m < 8 → score s best ≤ score s m) ∧ (∀ m, m < best → score s best < score s m) ∧
          exec .maskAuto s = .next t ∧
          t = succeeded { s with
            v := candidate s best
            fmt := fmtWord s.cfg.eccl (BitVec.ofNat 3 best)
            maskId := BitVec.ofNat 3 best
            pens := (candidatePenalties s best).toPens
            scores := t.scores
            status := { s.status with masked := true } } ∧
          ∀ m : Fin 8, t.scores[m] = BitVec.ofNat 32 (score s m.val))

/-- N1 adds 3 + (L − 5) for every maximal run of length L ≥ 5 of every row and every column. The runs of a line are maximal: laid
out one after the other they are the line, none is empty, and neighbours differ in colour (45_mask.md R532). -/
def Obligations.RunsAreMaximal : Prop :=
  (∀ line : List Bool, ∃ colours : List Bool, colours.length = (runs line).length ∧
    line = (colours.zip (runs line)).flatMap (fun r => List.replicate r.2 r.1) ∧
    (∀ n ∈ runs line, 1 ≤ n) ∧ colours.IsChain (· ≠ ·)) ∧
    ∀ (w : Plane) (size : Nat), penaltyRuns w size =
      (∑ y ∈ Finset.range size, lineRunPenalty ((List.range size).map fun x => w.get x y)) +
        ∑ x ∈ Finset.range size, lineRunPenalty ((List.range size).map fun y => w.get x y)

/-- N2 is 3 for every 2×2 window of one colour (45_mask.md R533). N3 is 40 for every window of eleven cells of a row or a column,
fully inside the symbol, that is PAT or the ALT that PATMODE selects: PAT's colour complement, or its reverse (R534). -/
def Obligations.BlocksAndPatternsAreCounted : Prop :=
  ∀ (w : Plane) (size : Nat),
    penaltyBlocks w size =
      3 * ((Finset.range (size - 1) ×ˢ Finset.range (size - 1)).filter fun c =>
        w.get c.1 c.2 = w.get (c.1 + 1) c.2 ∧ w.get c.1 c.2 = w.get c.1 (c.2 + 1) ∧
          w.get c.1 c.2 = w.get (c.1 + 1) (c.2 + 1)).card ∧
      ∀ patMode : Bool, penaltyPatterns patMode w size =
        40 * (((Finset.range size ×ˢ Finset.range (size - 10)).filter fun c =>
            windowMatches patMode (fun x => w.get x c.1) c.2).card +
          ((Finset.range size ×ˢ Finset.range (size - 10)).filter fun c =>
            windowMatches patMode (fun y => w.get c.1 y) c.2).card)

/-- The deviation d is floor(|p − 50|), p the percentage of dark cells; N4 is 10 × max(0, d − 1) in BALMODE 0 and 10 × (d div 5)
in BALMODE 1 (45_mask.md R535). -/
def Obligations.BalanceDeviationIsFloor : Prop :=
  (∀ dark total : Nat, 0 < total → (balanceDeviation dark total : Int) = ⌊|(100 * dark : ℚ) / total - 50|⌋) ∧
    ∀ (w : Plane) (size : Nat), 0 < size →
      let d : Int := ⌊|(100 * darkCells w size : ℚ) / (size * size : Nat) - 50|⌋
      (penaltyBalance false w size : Int) = 10 * max 0 (d - 1) ∧ (penaltyBalance true w size : Int) = 10 * (d / 5)

/-- No penalty and no total of a symbol exceeds its 32-bit register: N1 < 2¹⁶, N2 < 2¹⁷, N3 < 2²², N4 ≤ 500 (10_state.md R79). -/
def Obligations.PenaltiesFitTheirRegisters : Prop :=
  ∀ (ctrl : Ctrl) (w : Plane) (size : Nat), size ≤ 177 →
    (penalties ctrl w size).n1 < 2 ^ 16 ∧ (penalties ctrl w size).n2 < 2 ^ 17 ∧ (penalties ctrl w size).n3 < 2 ^ 22 ∧
      (penalties ctrl w size).n4 ≤ 500 ∧ (penalties ctrl w size).total < 2 ^ 32

/-! ## Format and version information -/

/-- FMT_ENC: INVALID_CONFIG for m ≥ 8; otherwise FMT becomes the word that, with the mask 0x5412 undone, holds level and mask
id in bits 14:10, is a multiple of the generator 0x537 and reduces to 0, and nothing else changes (46_format.md R600, R601,
R604). -/
def Obligations.FmtEncIsBchCodeword : Prop :=
  ∀ (m : Nat) (s : State),
    (8 ≤ m → exec (.fmtEnc m) s = .next (failed 4 s)) ∧
      (m < 8 → ∃ f : BitVec 15, exec (.fmtEnc m) s = .next (succeeded { s with fmt := f }) ∧
        f = fmtWord s.cfg.eccl (BitVec.ofNat 3 m) ∧ (f ^^^ 0x5412#15).toNat / 2 ^ 10 = 8 * s.cfg.eccl.toNat + m ∧
          (∃ q, q < 32 ∧ bchMultiple q = (f ^^^ 0x5412#15).toNat) ∧ bchReduce (f ^^^ 0x5412#15) = 0)

/-- FMT_WR: NO_GRID without a grid; otherwise both copies hold FMT, every other cell is as it was, and nothing else changes
(46_format.md R603, R605). -/
def Obligations.FmtWrWritesBothCopies : Prop :=
  ∀ s : State, s.GridInv →
    (s.status.gv = false → exec .fmtWr s = .next (failed 7 s)) ∧
      (s.status.gv = true →
        ∃ t, exec .fmtWr s = .next t ∧ t = succeeded { s with v := t.v } ∧ holdsFormat t.v (gridSize s) s.fmt ∧
          ∀ x y, ¬ formatCell (gridSize s) x y → t.v.get x y = s.v.get x y)

/-- VINFO_WR: NO_GRID, then INVALID_CONFIG below version 7; otherwise bit i of VINFO is in both cells of the version blocks,
every other cell is as it was, and nothing else changes (46_format.md R610, R612). -/
def Obligations.VinfoWrWritesBothBlocks : Prop :=
  ∀ s : State, s.GridInv →
    (s.status.gv = false → exec .vinfoWr s = .next (failed 7 s)) ∧
      (s.status.gv = true → s.gridInfo.gver.toNat < 7 → exec .vinfoWr s = .next (failed 4 s)) ∧
      (s.status.gv = true → 7 ≤ s.gridInfo.gver.toNat →
        ∃ t, exec .vinfoWr s = .next t ∧ t = succeeded { s with v := t.v } ∧
          (∀ i, i < 18 →
            t.v.get (gridSize s - 11 + i % 3) (i / 3) = s.cfg.vinfo.getLsbD i ∧
              t.v.get (i / 3) (gridSize s - 11 + i % 3) = s.cfg.vinfo.getLsbD i) ∧
          ∀ x y, ¬ versionCellOf (gridSize s) x y → t.v.get x y = s.v.get x y)

/-! ## RUN -/

/-- RUN is its stages' commands run one after the other until one ends with an error, RESULT counting the stages completed
(47_control.md R651). -/
def Obligations.RunIsItsStagesInOrder : Prop :=
  ∀ s : State, exec .run s =
    .next { (runCommands stageCommands 0 s).2 with result := BitVec.ofNat 32 (runCommands stageCommands 0 s).1 }

/-- RUN ends without error with RESULT = 6 and a masked grid, or with INVALID_CONFIG after 0 or 2 stages, or with LEN_MISMATCH
after 3 (47_control.md R651). -/
def Obligations.RunOutcomes : Prop :=
  ∀ s : State, ∃ t, exec .run s = .next t ∧
    ((t.status.err = false ∧ t.result = 6 ∧ t.status.masked = true ∧ t.status.gv = true) ∨
      (t.status.err = true ∧ t.status.errcode = 4 ∧ (t.result = 0 ∨ t.result = 2)) ∨
      (t.status.err = true ∧ t.status.errcode = 9 ∧ t.result = 3))

/-- RUN succeeds exactly when the profile and the configuration of GRID_INIT are legal and the codewords fit the grid that
GRID_INIT builds; it then leaves that grid's protection and version, the codeword count and a masked grid (41_rs.md R351,
43_grid.md R441, 44_placement.md R510, 47_control.md R651). -/
def Obligations.RunSucceedsExactlyWhenConfigured : Prop :=
  ∀ s : State, ∃ t, exec .run s = .next t ∧
    (t.status.err = false ↔ profileOk s.cfg ∧ initAccepts s ∧
      8 * (totalData s.cfg + totalEcc s.cfg) ≤ unprotectedCount (after .gridInit s).p (initSize s)) ∧
    (t.status.err = false → t.status.masked = true ∧ t.result = 6 ∧ t.gridInfo.gver = s.cfg.version ∧
      t.p = (after .gridInit s).p ∧ t.cwCount.toNat = totalData s.cfg + totalEcc s.cfg)

/-! ## The host interface -/

/-- A read of a misaligned or unassigned address answers (0, ERR); a write there has no effect and answers ERR; in every
region, busy or idle (20_memory.md R153, R157). -/
def Obligations.UnmappedAccessHasNoEffect : Prop :=
  ∀ (s : State) (a : HAddr) (d : Word), misaligned a ∨ unassigned a →
    (readIsNext s a → step s = .next (answered s (.read 0 .err))) ∧
      (writeIsNext s a d → step s = .next (answered s (.wrote .err)))

/-- While busy, a write to a mapped location is dropped: it answers ERR and sets WERR. A write to STATUS is applied and answers
OK. A misaligned or unassigned write does not set WERR (20_memory.md R171). -/
def Obligations.BusyWritesAreDropped : Prop :=
  ∀ (s : State) (c : Word) (a : HAddr) (d : Word), s.engine = .busy c → writeIsNext s a d →
    (mapped a → a ≠ 0x008 →
      step s = .next { answered s (.wrote .err) with status := { s.status with werr := true } }) ∧
      (a = 0x008 → step s = .next { answered s (.wrote .ok) with
        status :=
          { s.status with
            done := s.status.done && !d.getLsbD 1
            err := s.status.err && !d.getLsbD 1
            errcode := if d.getLsbD 1 then 0 else s.status.errcode
            werr := s.status.werr && !d.getLsbD 5 } }) ∧
      (¬ mapped a → step s = .next (answered s (.wrote .err)))

/-- While busy, reads of ID, CTRL, STATUS and CMD are exact; a read of any other mapped location answers OK with some word; no
read has another effect but on the model's own count of free values (20_memory.md R172). -/
def Obligations.BusyReads : Prop :=
  ∀ (s : State) (c : Word) (a : HAddr), s.engine = .busy c → readIsNext s a → mapped a →
    (a = 0x000 → step s = .next (answered s (.read 0x51524301 .ok))) ∧
      (a = 0x004 → step s = .next (answered s (.read (readReg s .ctrl) .ok))) ∧
      (a = 0x008 → step s = .next (answered s (.read (statusWord s) .ok))) ∧
      (a = 0x00C → step s = .next (answered s (.read s.cmd .ok))) ∧
      (a ≠ 0x000 → a ≠ 0x004 → a ≠ 0x008 → a ≠ 0x00C →
        ∃ w t, step s = .next t ∧ t = { answered s (.read w .ok) with draws := t.draws })

/-- While the engine is idle, no read has a side effect: only the answer changes, and the same read again gives the same answer
(20_memory.md R160). -/
def Obligations.IdleReadsHaveNoSideEffect : Prop :=
  ∀ (s : State) (a : HAddr) (rest : List Input), s.rst = false → s.engine = .idle → s.inputs = .read a :: .read a :: rest →
    ∃ w r, step s = .next (answered s (.read w r)) ∧
      step (answered s (.read w r)) = .next (answered (answered s (.read w r)) (.read w r))

/-- While idle, a read of a register's address answers OK with the register's value, and changes nothing but the answer: what
`readReg` gives for the register that `regAt` finds there, and that is the row of the table of offsets and fields
(10_state.md R51 to R79; 20_memory.md R152). -/
def Obligations.IdleRegisterReads : Prop :=
  ∀ (s : State) (a : HAddr), s.engine = .idle → readIsNext s a →
    (∀ r, regAt a.toNat = some r → step s = .next (answered s (.read (readReg s r) .ok))) ∧
      ∀ n, (a.toNat, n) ∈ registerTable s → step s = .next (answered s (.read (BitVec.ofNat 32 n) .ok))

/-- The bits of STATUS as the host reads them (10_state.md R54). -/
def Obligations.StatusWordBits : Prop :=
  ∀ s : State,
    (statusWord s).getLsbD 0 = s.engine.isBusy ∧ (statusWord s).getLsbD 1 = s.status.done ∧
      (statusWord s).getLsbD 2 = s.status.err ∧ (statusWord s).getLsbD 3 = s.status.gv ∧
      (statusWord s).getLsbD 4 = s.status.masked ∧ (statusWord s).getLsbD 5 = s.status.werr ∧
      (statusWord s).extractLsb' 8 4 = s.status.errcode ∧ (statusWord s).extractLsb' 6 2 = 0 ∧
      (statusWord s).extractLsb' 12 20 = 0

/-- A write to CMD while idle is accepted, and answers OK: the read-back and the latched word become c, DONE, ERR and ERRCODE are
cleared, BUSY is set, WERR is not changed. While busy it is dropped (60_exceptions.md R710). -/
def Obligations.CommandAcceptance : Prop :=
  ∀ (s : State) (c : Word), writeIsNext s 0x00C c →
    (s.engine = .idle → step s = .next { answered s (.wrote .ok) with
      cmd := c
      status := { s.status with done := false, err := false, errcode := 0 }
      engine := .busy c }) ∧
      ∀ c', s.engine = .busy c' → step s = .next { answered s (.wrote .err) with status := { s.status with werr := true } }

/-- While idle, a write to a writable register stores exactly its bits: reading it back gives the written word in those bits and
0 elsewhere, every other register reads as before, and nothing but the configuration registers and `CW_COUNT` changes, so
every buffer byte, plane and generator slot is as before (10_state.md R51). -/
def Obligations.WritableRegistersReadBack : Prop :=
  ∀ (s : State) (a : HAddr) (mask d : Word), (a, mask) ∈ rwRegisters → s.engine = .idle → writeIsNext s a d →
    ∃ t r, step s = .next t ∧ regAt a.toNat = some r ∧ readReg t r = d &&& mask ∧
      (∀ r', r' ≠ r → readReg t r' = readReg s r') ∧ (∀ b, byteAt t b = byteAt s b) ∧
      t = { answered s (.wrote .ok) with cfg := t.cfg, cwCount := t.cwCount }

/-- While idle, a write to a read-only location is ignored and answers OK (10_state.md R51; 20_memory.md R154, R156). -/
def Obligations.ReadOnlyLocationsIgnoreWrites : Prop :=
  ∀ (s : State) (a : HAddr) (d : Word), s.engine = .idle → writeIsNext s a d → readOnly a →
    step s = .next (answered s (.wrote .ok))

/-- While idle, a read of word w of a buffer window gives its bytes 4w to 4w + 3, the lowest in the lowest lane; a write stores
the four bytes so, and no other byte of any buffer (20_memory.md R155). -/
def Obligations.BufferWindowIsLittleEndian : Prop :=
  ∀ (s : State) (buf : Buffer) (w : Nat) (a : HAddr), s.engine = .idle → w < 1024 → a.toNat = buf.base + 4 * w →
    (readIsNext s a → ∃ word : Word, step s = .next (answered s (.read word .ok)) ∧
      ∀ j, j < 4 → word.extractLsb' (8 * j) 8 = bufByte s buf (4 * w + j)) ∧
      ∀ d, writeIsNext s a d →
        ∃ t, step s = .next t ∧ t = { answered s (.wrote .ok) with mem := t.mem } ∧
          (∀ j, j < 4 → bufByte t buf (4 * w + j) = d.extractLsb' (8 * j) 8) ∧
          ∀ b, b < a.toNat ∨ a.toNat + 4 ≤ b → byteAt t b = byteAt s b

/-- While idle, word w of row y of a grid window has bit b = plane(32w + b, y) inside the symbol of a valid grid, and 0
elsewhere; word w of the GEN window has byte j = GEN[4w + j], and 0 above slot 30. Writes there are ignored and answer OK
(20_memory.md R154, R156). -/
def Obligations.GridAndGenWindows : Prop :=
  ∀ (s : State) (a : HAddr), s.engine = .idle → ¬ misaligned a →
    (0x8000 ≤ a.toNat → a.toNat < 0xC000 → readIsNext s a → ∃ word : Word,
      step s = .next (answered s (.read word .ok)) ∧
      ∀ b, b < 32 →
        let plane := if a.toNat < 0xA000 then s.v else s.p
        let y := a.toNat % 0x2000 / 32
        let x := 32 * (a.toNat % 32 / 4) + b
        (word.getLsbD b = true ↔ s.status.gv = true ∧ y < gridSize s ∧ x < gridSize s ∧ plane.get x y = true)) ∧
      (0x400 ≤ a.toNat → a.toNat < 0x500 → readIsNext s a → ∃ word : Word,
        step s = .next (answered s (.read word .ok)) ∧
        ∀ j, j < 4 → word.extractLsb' (8 * j) 8 = s.gen.toList.getD (a.toNat - 0x400 + j) 0) ∧
      ((0x400 ≤ a.toNat ∧ a.toNat < 0x500) ∨ (0x8000 ≤ a.toNat ∧ a.toNat < 0xC000) →
        ∀ d, writeIsNext s a d → step s = .next (answered s (.wrote .ok)))

/-- Asserting `rst` abandons the command in flight; while it is asserted an access has no effect but an answer; when it is
released every register has its reset value, 0 but for ID, the engine is idle, GEN is 0 and the interrupt is low
(70_reset_and_hazards.md R760). That no buffer byte is written since then is the model's form of "unspecified" (log 1). R760
gives the state at the release only: that the interrupt is low and the engine idle already while `rst` is asserted, and that
the pending events survive the reset, are the model's choices (log 7). -/
def Obligations.ResetPinResets : Prop :=
  (∀ (s : State) (rest : List Input), s.inputs = .rst true :: .rst false :: rest →
    ∃ t u, step s = .next t ∧ step t = .next u ∧ t.rst = true ∧ t.engine = .idle ∧ irq t = false ∧
      (∀ r, readReg u r = if r = .id then 0x51524301 else 0) ∧ u.engine = .idle ∧ (∀ i : Fin 31, u.gen[i] = 0) ∧
      irq u = false ∧ u.rst = false ∧ u.inputs = rest ∧ u.mem = []) ∧
    ∀ (s : State) (rest : List Input) (a : HAddr) (d : Word), s.rst = true →
      s.inputs = .read a :: rest ∨ s.inputs = .write a d :: rest →
      ∃ t r, step s = .next t ∧ t = { answered s r with draws := t.draws }

/-- Straight after reset, GRID_INIT, RS_ALL, ILV and RUN raise INVALID_CONFIG, RS_ENC raises NO_GEN, and every grid command but
GRID_INIT raises NO_GRID (70_reset_and_hazards.md R762, which the spec derives). -/
def Obligations.CommandsAfterResetFail : Prop :=
  State.reset.cfg.version = 0 ∧ State.reset.genDeg = 0 ∧ State.reset.status.gv = false ∧
    readReg State.reset .prof0 = 0 ∧
    exec .gridInit State.reset = .next (failed 4 State.reset) ∧ exec .rsAll State.reset = .next (failed 4 State.reset) ∧
    exec .ilv State.reset = .next (failed 4 State.reset) ∧ exec .run State.reset = .next (failed 4 State.reset) ∧
    (∀ k, exec (.rsEnc k) State.reset = .next (failed 5 State.reset)) ∧
    (∀ x y d f, exec (.gridWr x y d f) State.reset = .next (failed 7 State.reset)) ∧
    (∀ x y, exec (.gridRd x y) State.reset = .next (failed 7 State.reset) ∧
      exec (.gridRsv x y) State.reset = .next (failed 7 State.reset)) ∧
    exec .place State.reset = .next (failed 7 State.reset) ∧
    (∀ m, m < 8 → exec (.maskScore m) State.reset = .next (failed 7 State.reset) ∧
      exec (.maskApply m) State.reset = .next (failed 7 State.reset)) ∧
    exec .maskAuto State.reset = .next (failed 7 State.reset) ∧ exec .fmtWr State.reset = .next (failed 7 State.reset) ∧
    exec .vinfoWr State.reset = .next (failed 7 State.reset)
end

