-- ==== Sys2Proof/Laws/Memory.lean ====
section
/-! SUPPORT. The laws of buffer memory: read after write, and that every operation keeps the canonical form. -/

namespace Sys2Proof.Machine

/-! ### Read after write -/

@[simp] theorem lookup_nil (addr : Nat) : Memory.lookup [] addr = none := rfl

/-- A write gives the value at its address and leaves every other address alone. -/
theorem lookup_write (m : Memory) (addr : Nat) (b : Byte) (a : Nat) :
    (m.write addr b).lookup a = if a = addr then some b else m.lookup a := by
  induction m with
  | nil => simp [Memory.write, Memory.lookup]
  | cons cell m ih =>
    obtain ⟨k, c⟩ := cell
    simp only [Memory.write]
    split
    · simp [Memory.lookup]
    · split
      · subst_vars; by_cases h : a = k <;> simp [Memory.lookup, h]
      · by_cases h : a = k
        · have : a ≠ addr := by omega
          simp [Memory.lookup, h]; omega
        · simp [Memory.lookup, h, ih]

/-- Consecutive writes give byte j at `addr + j` and leave every other address alone. -/
theorem lookup_writeBytes (m : Memory) (addr : Nat) (bs : List Byte) (a : Nat) :
    (m.writeBytes addr bs).lookup a = if addr ≤ a then (bs[a - addr]?).or (m.lookup a) else m.lookup a := by
  induction bs generalizing m addr with
  | nil => simp [Memory.writeBytes]
  | cons b bs ih =>
    rw [Memory.writeBytes, ih, lookup_write]
    by_cases h : addr + 1 ≤ a
    · have e : a - addr = (a - (addr + 1)) + 1 := by omega
      have n : a ≠ addr := by omega
      simp [h, n, e, show addr ≤ a by omega]
    · by_cases h2 : a = addr
      · subst h2; simp
      · simp [h, h2, show ¬ addr ≤ a by omega]

/-! ### The canonical form -/

theorem wf_iff (m : Memory) :
    m.wf = true ↔ (m.Pairwise fun a b => a.1 < b.1) ∧ ∀ c ∈ m, 0x1000 ≤ c.1 ∧ c.1 < 0x4000 := by
  simp [Memory.wf]

theorem mem_write {m : Memory} {addr : Nat} {b : Byte} {c : Host.Cell} (h : c ∈ m.write addr b) :
    c = (addr, b) ∨ c ∈ m := by
  induction m with
  | nil => simpa [Memory.write] using h
  | cons cell m ih =>
    obtain ⟨k, d⟩ := cell
    simp only [Memory.write] at h
    split at h
    · simpa using h
    · split at h
      · rcases List.mem_cons.1 h with h | h <;> simp [h]
      · rcases List.mem_cons.1 h with h | h
        · simp [h]
        · rcases ih h with h | h <;> simp [h]

theorem pairwise_write {m : Memory} (h : m.Pairwise fun a b => a.1 < b.1) (addr : Nat) (b : Byte) :
    (m.write addr b).Pairwise fun a b => a.1 < b.1 := by
  induction m with
  | nil => simp [Memory.write]
  | cons cell m ih =>
    obtain ⟨k, d⟩ := cell
    rw [List.pairwise_cons] at h
    simp only [Memory.write]
    split
    · rename_i hlt
      refine List.pairwise_cons.2 ⟨fun c hc => ?_, List.pairwise_cons.2 h⟩
      rcases List.mem_cons.1 hc with rfl | hc
      · exact hlt
      · exact Nat.lt_trans hlt (h.1 c hc)
    · split
      · rename_i heq; subst heq; exact List.pairwise_cons.2 h
      · refine List.pairwise_cons.2 ⟨fun c hc => ?_, ih h.2⟩
        rcases mem_write hc with rfl | hc
        · show k < addr; omega
        · exact h.1 c hc

/-- Writing a byte of a buffer window keeps the canonical form. -/
theorem wf_write {m : Memory} (h : m.wf = true) {addr : Nat} (lo : 0x1000 ≤ addr) (hi : addr < 0x4000) (b : Byte) :
    (m.write addr b).wf = true := by
  rw [wf_iff] at h ⊢
  refine ⟨pairwise_write h.1 addr b, fun c hc => ?_⟩
  rcases mem_write hc with rfl | hc
  · exact ⟨lo, hi⟩
  · exact h.2 c hc

/-- Writing bytes of the buffer windows keeps the canonical form. -/
theorem wf_writeBytes {m : Memory} (h : m.wf = true) {addr : Nat} (lo : 0x1000 ≤ addr) (bs : List Byte)
    (hi : addr + bs.length ≤ 0x4000) : (m.writeBytes addr bs).wf = true := by
  induction bs generalizing m addr with
  | nil => exact h
  | cons b bs ih =>
    rw [List.length_cons] at hi
    exact ih (wf_write h lo (by omega) b) (by omega) (by omega)

/-- The reset memory lists nothing, in canonical form. -/
theorem wf_nil : Memory.wf [] = true := rfl

theorem base_bounds (buf : Buffer) : 0x1000 ≤ buf.base ∧ buf.base + Config.bufSize ≤ 0x4000 := by
  cases buf <;> decide

/-- Storing inside a buffer keeps the canonical form. -/
theorem wf_writeBuf {m : Memory} (h : m.wf = true) (buf : Buffer) {off : Nat} {bytes : List Byte}
    (hi : off + bytes.length ≤ Config.bufSize) : (writeBuf m buf off bytes).wf = true := by
  have := base_bounds buf
  exact wf_writeBytes h (by omega) bytes (by omega)

/-! ### Bytes of the buffers -/

/-- What a store to a buffer leaves at each address: the stored bytes inside, everything else as before. -/
theorem lookup_writeBuf (m : Memory) (buf : Buffer) (off : Nat) (bytes : List Byte) (a : Nat) :
    (writeBuf m buf off bytes).lookup a =
      if buf.base + off ≤ a then (bytes[a - (buf.base + off)]?).or (m.lookup a) else m.lookup a :=
  lookup_writeBytes m (buf.base + off) bytes a

theorem lookup_writeBuf_inside (m : Memory) (buf : Buffer) (off : Nat) (bytes : List Byte) {j : Nat}
    (h : j < bytes.length) : (writeBuf m buf off bytes).lookup (buf.base + (off + j)) = some bytes[j] := by
  rw [lookup_writeBuf, if_pos (by omega), show buf.base + (off + j) - (buf.base + off) = j by omega]
  simp [h]

theorem lookup_writeBuf_outside (m : Memory) (buf : Buffer) (off : Nat) (bytes : List Byte) {a : Nat}
    (h : a < buf.base + off ∨ buf.base + off + bytes.length ≤ a) :
    (writeBuf m buf off bytes).lookup a = m.lookup a := by
  rw [lookup_writeBuf]
  split
  · rw [List.getElem?_eq_none (by omega)]; rfl
  · rfl

@[simp] theorem length_bufBytes (s : State) (buf : Buffer) (off n : Nat) : (bufBytes s buf off n).length = n := by
  simp [bufBytes]

/-- Two states with the same written bytes and the same free draw read the same. -/
theorem byteAt_congr {s t : State} {a : Nat} (hm : t.mem.lookup a = s.mem.lookup a) (he : t.epoch = s.epoch) :
    byteAt t a = byteAt s a := by
  simp [byteAt, hm, he]

end Sys2Proof.Machine
end

