-- ==== Sys2Proof/Laws/Plane.lean ====
section
/-! SUPPORT. The laws of grid planes: what a cell holds after each operation. -/

namespace Sys2Proof.Machine

theorem getLsbD_bitsOf (f : Nat → Bool) (n i : Nat) : (bitsOf f n).getLsbD i = (decide (i < n) && f i) := by
  induction n with
  | zero => simp [bitsOf]
  | succ n ih =>
    rw [bitsOf, BitVec.getLsbD_cons, ih]
    by_cases h : i = n
    · subst h; simp
    · rw [if_neg h]
      by_cases h2 : i < n
      · simp [h2, show i < n + 1 by omega]
      · simp [h2, show ¬ i < n + 1 by omega]

theorem getLsbD_setBit {n : Nat} (row : BitVec n) (x : Nat) (b : Bool) (i : Nat) :
    (setBit row x b).getLsbD i = if i = x ∧ x < n then b else row.getLsbD i := by
  by_cases hx : i = x
  · subst hx
    by_cases hi : i < n
    · cases b <;> simp [setBit, hi]
    · have : row.getLsbD i = false := BitVec.getLsbD_of_ge row i (by omega)
      cases b <;> simp [setBit, hi, this]
  · have hx' : ¬ x = i := fun h => hx h.symm
    by_cases hi : i < n
    · cases b <;> simp [setBit, hi, hx]
    · have : row.getLsbD i = false := BitVec.getLsbD_of_ge row i (by omega)
      cases b <;> simp [setBit, BitVec.getLsbD_twoPow, hi, hx, hx', this]

/-- A cell after a write: the written value at its place, every other cell as before. -/
theorem get_set (p : Plane) (x y : Nat) (b : Bool) (i j : Nat) :
    (p.set x y b).get i j =
      if i = x ∧ j = y ∧ x < Config.gridDim ∧ y < Config.gridDim then b else p.get i j := by
  unfold Plane.set
  by_cases hy : y < Config.gridDim
  · rw [dif_pos hy]
    unfold Plane.get
    by_cases hj : j < Config.gridDim
    · rw [dif_pos hj, dif_pos hj]
      simp only [Vector.getElem_set]
      by_cases hjy : y = j
      · subst hjy; simp [getLsbD_setBit, hy]
      · simp [hjy, show ¬ j = y from fun h => hjy h.symm]
    · rw [dif_neg hj, dif_neg hj, if_neg (by omega)]
  · rw [dif_neg hy, if_neg (by omega)]

theorem get_outside (p : Plane) {x y : Nat} (h : Config.gridDim ≤ x ∨ Config.gridDim ≤ y) : p.get x y = false := by
  unfold Plane.get
  split
  · exact BitVec.getLsbD_of_ge _ _ (by omega)
  · rfl

@[simp] theorem get_blank (x y : Nat) : Plane.blank.get x y = false := by
  simp [Plane.get, Plane.blank]

/-- The cells of a plane given by a function. -/
theorem get_ofFn (f : Nat → Nat → Bool) (x y : Nat) :
    (Plane.ofFn f).get x y = (decide (x < Config.gridDim) && decide (y < Config.gridDim) && f x y) := by
  unfold Plane.get Plane.ofFn
  by_cases hy : y < Config.gridDim
  · simp [hy, getLsbD_bitsOf]
  · simp [hy]

/-- Planes with the same cells are equal. -/
theorem plane_ext {p q : Plane} (h : ∀ x y, x < Config.gridDim → y < Config.gridDim → p.get x y = q.get x y) : p = q := by
  obtain ⟨p⟩ := p
  obtain ⟨q⟩ := q
  congr
  apply Vector.ext
  intro y hy
  apply BitVec.eq_of_getLsbD_eq
  intro x hx
  simpa [Plane.get, hy] using h x y hx hy

@[simp] theorem setAll_nil (p : Plane) : p.setAll [] = p := rfl

@[simp] theorem setAll_cons (p : Plane) (c : Nat × Nat × Bool) (cs : List (Nat × Nat × Bool)) :
    p.setAll (c :: cs) = (p.set c.1 c.2.1 c.2.2).setAll cs := rfl

theorem setAll_append (p : Plane) (as bs : List (Nat × Nat × Bool)) : p.setAll (as ++ bs) = (p.setAll as).setAll bs := by
  simp [Plane.setAll, List.foldl_append]

/-- A cell no listed write names is as before. -/
theorem get_setAll_of_not_mem (p : Plane) (cells : List (Nat × Nat × Bool)) {x y : Nat}
    (h : ∀ c ∈ cells, ¬ (c.1 = x ∧ c.2.1 = y)) : (p.setAll cells).get x y = p.get x y := by
  induction cells generalizing p with
  | nil => rfl
  | cons c cs ih =>
    rw [setAll_cons, ih _ fun d hd => h d (List.mem_cons_of_mem _ hd), get_set, if_neg]
    rintro ⟨rfl, rfl, _⟩
    exact h c List.mem_cons_self ⟨rfl, rfl⟩

/-- A cell that some listed write names, all of them with one value, holds that value. -/
theorem get_setAll_of_mem (p : Plane) (cells : List (Nat × Nat × Bool)) {x y : Nat} {b : Bool}
    (hx : x < Config.gridDim) (hy : y < Config.gridDim) (hm : ∃ c ∈ cells, c.1 = x ∧ c.2.1 = y)
    (hv : ∀ c ∈ cells, c.1 = x → c.2.1 = y → c.2.2 = b) : (p.setAll cells).get x y = b := by
  induction cells generalizing p with
  | nil => simp at hm
  | cons c cs ih =>
    rw [setAll_cons]
    by_cases hcs : ∃ d ∈ cs, d.1 = x ∧ d.2.1 = y
    · exact ih _ hcs fun d hd => hv d (List.mem_cons_of_mem _ hd)
    · rw [get_setAll_of_not_mem _ _ fun d hd hxy => hcs ⟨d, hd, hxy⟩]
      obtain ⟨d, hd, h1, h2⟩ := hm
      rcases List.mem_cons.1 hd with rfl | hd
      · rw [get_set, if_pos ⟨h1.symm, h2.symm, h1 ▸ hx, h2 ▸ hy⟩]
        exact hv d List.mem_cons_self h1 h2
      · exact absurd ⟨d, hd, h1, h2⟩ hcs

theorem mem_squareCells (size : Nat) (c : Nat × Nat) : c ∈ squareCells size ↔ c.1 < size ∧ c.2 < size := by
  obtain ⟨x, y⟩ := c
  simp only [squareCells, List.mem_flatMap, List.mem_map, List.mem_range, Prod.mk.injEq]
  constructor
  · rintro ⟨b, hb, a, ha, rfl, rfl⟩; exact ⟨ha, hb⟩
  · rintro ⟨hx, hy⟩; exact ⟨y, hy, x, hx, rfl, rfl⟩

theorem length_squareCells (size : Nat) : (squareCells size).length = size * size := by
  simp [squareCells, List.length_flatMap]

end Sys2Proof.Machine
end

