-- ==== Sys2Proof/Laws/State.lean ====
section
/-! SUPPORT. What each named update of the state leaves in each field: one lemma per field per update. -/

namespace Sys2Proof.Machine

/-! ### Acceptance (60_exceptions.md R710) -/

@[simp] theorem accept_cfg (c : Word) (s : State) : (accept c s).cfg = s.cfg := rfl
@[simp] theorem accept_status (c : Word) (s : State) : (accept c s).status = { s.status with done := false, err := false, errcode := 0 } := rfl
@[simp] theorem accept_engine (c : Word) (s : State) : (accept c s).engine = .busy c := rfl
@[simp] theorem accept_cmd (c : Word) (s : State) : (accept c s).cmd = c := rfl
@[simp] theorem accept_result (c : Word) (s : State) : (accept c s).result = s.result := rfl
@[simp] theorem accept_genDeg (c : Word) (s : State) : (accept c s).genDeg = s.genDeg := rfl
@[simp] theorem accept_cwCount (c : Word) (s : State) : (accept c s).cwCount = s.cwCount := rfl
@[simp] theorem accept_placed (c : Word) (s : State) : (accept c s).placed = s.placed := rfl
@[simp] theorem accept_remBits (c : Word) (s : State) : (accept c s).remBits = s.remBits := rfl
@[simp] theorem accept_gridInfo (c : Word) (s : State) : (accept c s).gridInfo = s.gridInfo := rfl
@[simp] theorem accept_fmt (c : Word) (s : State) : (accept c s).fmt = s.fmt := rfl
@[simp] theorem accept_maskId (c : Word) (s : State) : (accept c s).maskId = s.maskId := rfl
@[simp] theorem accept_pens (c : Word) (s : State) : (accept c s).pens = s.pens := rfl
@[simp] theorem accept_scores (c : Word) (s : State) : (accept c s).scores = s.scores := rfl
@[simp] theorem accept_gen (c : Word) (s : State) : (accept c s).gen = s.gen := rfl
@[simp] theorem accept_mem (c : Word) (s : State) : (accept c s).mem = s.mem := rfl
@[simp] theorem accept_v (c : Word) (s : State) : (accept c s).v = s.v := rfl
@[simp] theorem accept_p (c : Word) (s : State) : (accept c s).p = s.p := rfl
@[simp] theorem accept_rst (c : Word) (s : State) : (accept c s).rst = s.rst := rfl
@[simp] theorem accept_inputs (c : Word) (s : State) : (accept c s).inputs = s.inputs := rfl
@[simp] theorem accept_answer (c : Word) (s : State) : (accept c s).answer = s.answer := rfl
@[simp] theorem accept_epoch (c : Word) (s : State) : (accept c s).epoch = s.epoch := rfl
@[simp] theorem accept_draws (c : Word) (s : State) : (accept c s).draws = s.draws := rfl

/-! ### Completion (60_exceptions.md R711) -/

@[simp] theorem complete_cfg (e : Option ErrorCode) (s : State) : (complete e s).cfg = s.cfg := rfl
@[simp] theorem complete_status (e : Option ErrorCode) (s : State) : (complete e s).status = s.status.completed e := rfl
@[simp] theorem complete_engine (e : Option ErrorCode) (s : State) : (complete e s).engine = .idle := rfl
@[simp] theorem complete_cmd (e : Option ErrorCode) (s : State) : (complete e s).cmd = s.cmd := rfl
@[simp] theorem complete_result (e : Option ErrorCode) (s : State) : (complete e s).result = s.result := rfl
@[simp] theorem complete_genDeg (e : Option ErrorCode) (s : State) : (complete e s).genDeg = s.genDeg := rfl
@[simp] theorem complete_cwCount (e : Option ErrorCode) (s : State) : (complete e s).cwCount = s.cwCount := rfl
@[simp] theorem complete_placed (e : Option ErrorCode) (s : State) : (complete e s).placed = s.placed := rfl
@[simp] theorem complete_remBits (e : Option ErrorCode) (s : State) : (complete e s).remBits = s.remBits := rfl
@[simp] theorem complete_gridInfo (e : Option ErrorCode) (s : State) : (complete e s).gridInfo = s.gridInfo := rfl
@[simp] theorem complete_fmt (e : Option ErrorCode) (s : State) : (complete e s).fmt = s.fmt := rfl
@[simp] theorem complete_maskId (e : Option ErrorCode) (s : State) : (complete e s).maskId = s.maskId := rfl
@[simp] theorem complete_pens (e : Option ErrorCode) (s : State) : (complete e s).pens = s.pens := rfl
@[simp] theorem complete_scores (e : Option ErrorCode) (s : State) : (complete e s).scores = s.scores := rfl
@[simp] theorem complete_gen (e : Option ErrorCode) (s : State) : (complete e s).gen = s.gen := rfl
@[simp] theorem complete_mem (e : Option ErrorCode) (s : State) : (complete e s).mem = s.mem := rfl
@[simp] theorem complete_v (e : Option ErrorCode) (s : State) : (complete e s).v = s.v := rfl
@[simp] theorem complete_p (e : Option ErrorCode) (s : State) : (complete e s).p = s.p := rfl
@[simp] theorem complete_rst (e : Option ErrorCode) (s : State) : (complete e s).rst = s.rst := rfl
@[simp] theorem complete_inputs (e : Option ErrorCode) (s : State) : (complete e s).inputs = s.inputs := rfl
@[simp] theorem complete_answer (e : Option ErrorCode) (s : State) : (complete e s).answer = s.answer := rfl
@[simp] theorem complete_epoch (e : Option ErrorCode) (s : State) : (complete e s).epoch = s.epoch := rfl
@[simp] theorem complete_draws (e : Option ErrorCode) (s : State) : (complete e s).draws = s.draws := rfl

/-! ### Storing a generator (41_rs.md R360) -/

@[simp] theorem setGenerator_cfg (n : Nat) (s : State) : (setGenerator n s).cfg = s.cfg := rfl
@[simp] theorem setGenerator_status (n : Nat) (s : State) : (setGenerator n s).status = s.status := rfl
@[simp] theorem setGenerator_engine (n : Nat) (s : State) : (setGenerator n s).engine = s.engine := rfl
@[simp] theorem setGenerator_cmd (n : Nat) (s : State) : (setGenerator n s).cmd = s.cmd := rfl
@[simp] theorem setGenerator_result (n : Nat) (s : State) : (setGenerator n s).result = s.result := rfl
@[simp] theorem setGenerator_genDeg (n : Nat) (s : State) : (setGenerator n s).genDeg = BitVec.ofNat 8 n := rfl
@[simp] theorem setGenerator_cwCount (n : Nat) (s : State) : (setGenerator n s).cwCount = s.cwCount := rfl
@[simp] theorem setGenerator_placed (n : Nat) (s : State) : (setGenerator n s).placed = s.placed := rfl
@[simp] theorem setGenerator_remBits (n : Nat) (s : State) : (setGenerator n s).remBits = s.remBits := rfl
@[simp] theorem setGenerator_gridInfo (n : Nat) (s : State) : (setGenerator n s).gridInfo = s.gridInfo := rfl
@[simp] theorem setGenerator_fmt (n : Nat) (s : State) : (setGenerator n s).fmt = s.fmt := rfl
@[simp] theorem setGenerator_maskId (n : Nat) (s : State) : (setGenerator n s).maskId = s.maskId := rfl
@[simp] theorem setGenerator_pens (n : Nat) (s : State) : (setGenerator n s).pens = s.pens := rfl
@[simp] theorem setGenerator_scores (n : Nat) (s : State) : (setGenerator n s).scores = s.scores := rfl
@[simp] theorem setGenerator_gen (n : Nat) (s : State) : (setGenerator n s).gen = generatorSlots n := rfl
@[simp] theorem setGenerator_mem (n : Nat) (s : State) : (setGenerator n s).mem = s.mem := rfl
@[simp] theorem setGenerator_v (n : Nat) (s : State) : (setGenerator n s).v = s.v := rfl
@[simp] theorem setGenerator_p (n : Nat) (s : State) : (setGenerator n s).p = s.p := rfl
@[simp] theorem setGenerator_rst (n : Nat) (s : State) : (setGenerator n s).rst = s.rst := rfl
@[simp] theorem setGenerator_inputs (n : Nat) (s : State) : (setGenerator n s).inputs = s.inputs := rfl
@[simp] theorem setGenerator_answer (n : Nat) (s : State) : (setGenerator n s).answer = s.answer := rfl
@[simp] theorem setGenerator_epoch (n : Nat) (s : State) : (setGenerator n s).epoch = s.epoch := rfl
@[simp] theorem setGenerator_draws (n : Nat) (s : State) : (setGenerator n s).draws = s.draws := rfl

/-! ### Applying a mask (45_mask.md R542) -/

@[simp] theorem applyMask_cfg (m : Nat) (s : State) : (applyMask m s).cfg = s.cfg := rfl
@[simp] theorem applyMask_status (m : Nat) (s : State) : (applyMask m s).status = { s.status with masked := true } := rfl
@[simp] theorem applyMask_engine (m : Nat) (s : State) : (applyMask m s).engine = s.engine := rfl
@[simp] theorem applyMask_cmd (m : Nat) (s : State) : (applyMask m s).cmd = s.cmd := rfl
@[simp] theorem applyMask_result (m : Nat) (s : State) : (applyMask m s).result = s.result := rfl
@[simp] theorem applyMask_genDeg (m : Nat) (s : State) : (applyMask m s).genDeg = s.genDeg := rfl
@[simp] theorem applyMask_cwCount (m : Nat) (s : State) : (applyMask m s).cwCount = s.cwCount := rfl
@[simp] theorem applyMask_placed (m : Nat) (s : State) : (applyMask m s).placed = s.placed := rfl
@[simp] theorem applyMask_remBits (m : Nat) (s : State) : (applyMask m s).remBits = s.remBits := rfl
@[simp] theorem applyMask_gridInfo (m : Nat) (s : State) : (applyMask m s).gridInfo = s.gridInfo := rfl
@[simp] theorem applyMask_fmt (m : Nat) (s : State) : (applyMask m s).fmt = fmtWord s.cfg.eccl (BitVec.ofNat 3 m) := rfl
@[simp] theorem applyMask_maskId (m : Nat) (s : State) : (applyMask m s).maskId = BitVec.ofNat 3 m := rfl
@[simp] theorem applyMask_pens (m : Nat) (s : State) : (applyMask m s).pens = s.pens := rfl
@[simp] theorem applyMask_scores (m : Nat) (s : State) : (applyMask m s).scores = s.scores := rfl
@[simp] theorem applyMask_gen (m : Nat) (s : State) : (applyMask m s).gen = s.gen := rfl
@[simp] theorem applyMask_mem (m : Nat) (s : State) : (applyMask m s).mem = s.mem := rfl
@[simp] theorem applyMask_v (m : Nat) (s : State) : (applyMask m s).v = candidate s m := by simp only [applyMask]
@[simp] theorem applyMask_p (m : Nat) (s : State) : (applyMask m s).p = s.p := rfl
@[simp] theorem applyMask_rst (m : Nat) (s : State) : (applyMask m s).rst = s.rst := rfl
@[simp] theorem applyMask_inputs (m : Nat) (s : State) : (applyMask m s).inputs = s.inputs := rfl
@[simp] theorem applyMask_answer (m : Nat) (s : State) : (applyMask m s).answer = s.answer := rfl
@[simp] theorem applyMask_epoch (m : Nat) (s : State) : (applyMask m s).epoch = s.epoch := rfl
@[simp] theorem applyMask_draws (m : Nat) (s : State) : (applyMask m s).draws = s.draws := rfl

/-! ### Taking the next event of the schedule -/

@[simp] theorem takeInput_cfg (s : State) : (takeInput s).cfg = s.cfg := rfl
@[simp] theorem takeInput_status (s : State) : (takeInput s).status = s.status := rfl
@[simp] theorem takeInput_engine (s : State) : (takeInput s).engine = s.engine := rfl
@[simp] theorem takeInput_cmd (s : State) : (takeInput s).cmd = s.cmd := rfl
@[simp] theorem takeInput_result (s : State) : (takeInput s).result = s.result := rfl
@[simp] theorem takeInput_genDeg (s : State) : (takeInput s).genDeg = s.genDeg := rfl
@[simp] theorem takeInput_cwCount (s : State) : (takeInput s).cwCount = s.cwCount := rfl
@[simp] theorem takeInput_placed (s : State) : (takeInput s).placed = s.placed := rfl
@[simp] theorem takeInput_remBits (s : State) : (takeInput s).remBits = s.remBits := rfl
@[simp] theorem takeInput_gridInfo (s : State) : (takeInput s).gridInfo = s.gridInfo := rfl
@[simp] theorem takeInput_fmt (s : State) : (takeInput s).fmt = s.fmt := rfl
@[simp] theorem takeInput_maskId (s : State) : (takeInput s).maskId = s.maskId := rfl
@[simp] theorem takeInput_pens (s : State) : (takeInput s).pens = s.pens := rfl
@[simp] theorem takeInput_scores (s : State) : (takeInput s).scores = s.scores := rfl
@[simp] theorem takeInput_gen (s : State) : (takeInput s).gen = s.gen := rfl
@[simp] theorem takeInput_mem (s : State) : (takeInput s).mem = s.mem := rfl
@[simp] theorem takeInput_v (s : State) : (takeInput s).v = s.v := rfl
@[simp] theorem takeInput_p (s : State) : (takeInput s).p = s.p := rfl
@[simp] theorem takeInput_rst (s : State) : (takeInput s).rst = s.rst := rfl
@[simp] theorem takeInput_inputs (s : State) : (takeInput s).inputs = s.inputs.tail := rfl
@[simp] theorem takeInput_answer (s : State) : (takeInput s).answer = none := rfl
@[simp] theorem takeInput_epoch (s : State) : (takeInput s).epoch = s.epoch := rfl
@[simp] theorem takeInput_draws (s : State) : (takeInput s).draws = s.draws := rfl

/-! ### STATUS at completion -/

@[simp] theorem completed_done (st : Status) (e : Option ErrorCode) : (st.completed e).done = true := by cases e <;> rfl
@[simp] theorem completed_err (st : Status) (e : Option ErrorCode) : (st.completed e).err = e.isSome := by cases e <;> rfl
@[simp] theorem completed_gv (st : Status) (e : Option ErrorCode) : (st.completed e).gv = st.gv := by cases e <;> rfl
@[simp] theorem completed_masked (st : Status) (e : Option ErrorCode) : (st.completed e).masked = st.masked := by
  cases e <;> rfl
@[simp] theorem completed_werr (st : Status) (e : Option ErrorCode) : (st.completed e).werr = st.werr := by cases e <;> rfl
@[simp] theorem completed_errcode_none (st : Status) : (st.completed none).errcode = 0 := rfl
@[simp] theorem completed_errcode_some (st : Status) (e : ErrorCode) : (st.completed (some e)).errcode = e.code := rfl

/-- Every error has a code, and none is 0 (60_exceptions.md R700). -/
theorem code_ne_zero (e : ErrorCode) : e.code ≠ 0 := by cases e <;> decide

/-- Codes 11 to 15 are never produced (60_exceptions.md R700). -/
theorem code_le_ten (e : ErrorCode) : e.code.toNat ≤ 10 := by cases e <;> decide

/-- Two errors with one code are one error. -/
theorem code_injective : Function.Injective ErrorCode.code := by
  intro a b h
  cases a <;> cases b <;> first | rfl | exact absurd h (by decide)

end Sys2Proof.Machine
end

