-- ==== Sys2Proof/Laws/Effects.lean ====
section
/-! SUPPORT. What each shared operation of the commands can answer: one inversion lemma each. -/

namespace Sys2Proof.Machine

/-! ### Completion -/

@[simp] theorem conclude_ok (s t : State) : conclude s (.ok t) = .next (complete none t) := rfl
@[simp] theorem conclude_error (s : State) (e : ErrorCode) : conclude s (.error e) = .next (complete (some e) s) := rfl

/-- A command concludes in a next state: its effect completed, or the old state completed with the error it raised. -/
theorem conclude_cases {s u : State} {r : Except ErrorCode State} (h : conclude s r = .next u) :
    (∃ t, r = .ok t ∧ u = complete none t) ∨ (∃ e, r = .error e ∧ u = complete (some e) s) := by
  cases r with
  | ok t => exact .inl ⟨t, rfl, by simpa using h.symm⟩
  | error e => exact .inr ⟨e, rfl, by simpa using h.symm⟩

/-- The effect a command concludes with; RUN's stages report their own (47_control.md R651). -/
def effectOf : Instr → State → Except ErrorCode State
  | .nop => .ok
  | .gfMul a b => effGfMul a b
  | .gfDiv a b => effGfDiv a b
  | .gfExp e => effGfExp e
  | .gfLog a => effGfLog a
  | .rsGen n => effRsGen n
  | .rsEnc k => effRsEnc k
  | .rsAll => effRsAll
  | .ilv => effIlv
  | .gridInit => effGridInit
  | .gridWr x y d f => effGridWr x y d f
  | .gridRd x y => effGridRd x y
  | .gridRsv x y => effGridRsv x y
  | .place => effPlace
  | .maskScore m => effMaskScore m
  | .maskApply m => effMaskApply m
  | .maskAuto => effMaskAuto
  | .fmtEnc m => effFmtEnc m
  | .fmtWr => effFmtWr
  | .vinfoWr => effVinfoWr
  | .run => .ok

/-- Every command but RUN concludes with its effect. -/
theorem exec_eq_conclude {i : Instr} (h : i ≠ .run) (s : State) : exec i s = conclude s (effectOf i s) := by
  cases i <;> first | rfl | exact absurd rfl h

/-- A command other than RUN that ends without an error had its effect and completed; with an error, it only completed. -/
theorem exec_cases {i : Instr} {s u : State} (h : i ≠ .run) (hu : exec i s = .next u) :
    (∃ t, effectOf i s = .ok t ∧ u = complete none t) ∨ (∃ e, effectOf i s = .error e ∧ u = complete (some e) s) := by
  rw [exec_eq_conclude h] at hu
  exact conclude_cases hu

/-! ### The shared checks -/

theorem withGrid_of_gv {s : State} (h : s.status.gv = true) (r : Except ErrorCode State) : withGrid s r = r := by
  simp [withGrid, h]

theorem withGrid_of_not_gv {s : State} (h : s.status.gv = false) (r : Except ErrorCode State) :
    withGrid s r = .error .noGrid := by simp [withGrid, h]

theorem withUnmasked_of_unmasked {s : State} (h : s.status.masked = false) (r : Except ErrorCode State) :
    withUnmasked s r = r := by simp [withUnmasked, h]

theorem withUnmasked_of_masked {s : State} (h : s.status.masked = true) (r : Except ErrorCode State) :
    withUnmasked s r = .error .seq := by simp [withUnmasked, h]

theorem withMaskId_of_lt {m : Nat} (h : m < 8) (r : Except ErrorCode State) : withMaskId m r = r := by
  simp [withMaskId, show ¬ 8 ≤ m by omega]

theorem withMaskId_of_ge {m : Nat} (h : 8 ≤ m) (r : Except ErrorCode State) :
    withMaskId m r = .error .invalidConfig := by simp [withMaskId, h]

theorem withGrid_ok {s t : State} {r : Except ErrorCode State} (h : withGrid s r = .ok t) :
    s.status.gv = true ∧ r = .ok t := by
  unfold withGrid at h
  split at h
  · exact ⟨‹_›, h⟩
  · cases h

theorem withUnmasked_ok {s t : State} {r : Except ErrorCode State} (h : withUnmasked s r = .ok t) :
    s.status.masked = false ∧ r = .ok t := by
  unfold withUnmasked at h
  split at h
  · cases h
  · next hm => exact ⟨Bool.eq_false_iff.2 hm, h⟩

theorem withMaskId_ok {m : Nat} {t : State} {r : Except ErrorCode State} (h : withMaskId m r = .ok t) :
    m < 8 ∧ r = .ok t := by
  unfold withMaskId at h
  split at h
  · cases h
  · exact ⟨by omega, h⟩

theorem withCell_ok {s t : State} {x y : Nat} {r : Except ErrorCode State} (h : withCell s x y r = .ok t) :
    s.status.gv = true ∧ x < gridSize s ∧ y < gridSize s ∧ r = .ok t := by
  obtain ⟨hg, h⟩ := withGrid_ok h
  split at h
  · cases h
  · exact ⟨hg, by omega, by omega, h⟩

/-- Inside the grid of a state that has one, the cell check passes. -/
theorem withCell_of_inside {s : State} {x y : Nat} (hg : s.status.gv = true) (hx : x < gridSize s) (hy : y < gridSize s)
    (r : Except ErrorCode State) : withCell s x y r = r := by
  rw [withCell, withGrid_of_gv hg, if_neg (by omega)]

/-! ### The guarded write (43_grid.md R440) -/

/-- The guarded write refuses exactly a protected cell without force, and then changes nothing. -/
theorem gridWrite_cases (v p : Plane) (x y : Nat) (d f : Bool) :
    (p.get x y = true ∧ f = false ∧ gridWrite v p x y d f = (false, v)) ∨
      ((p.get x y = false ∨ f = true) ∧ gridWrite v p x y d f = (true, v.set x y d)) := by
  unfold gridWrite
  cases hp : p.get x y <;> cases f <;> simp

/-! ### Building a grid -/

@[simp] theorem stamp_nil (g : Grid) : g.stamp [] = g := rfl

@[simp] theorem stamp_cons (g : Grid) (c : Nat × Nat × Bool) (cs : List (Nat × Nat × Bool)) :
    g.stamp (c :: cs) = Grid.stamp ⟨g.v.set c.1 c.2.1 c.2.2, g.p.set c.1 c.2.1 true⟩ cs := rfl

/-- Stamping writes plane V as the listed writes do. -/
theorem stamp_v (g : Grid) (cells : List (Nat × Nat × Bool)) : (g.stamp cells).v = g.v.setAll cells := by
  induction cells generalizing g with
  | nil => rfl
  | cons c cs ih => rw [stamp_cons, ih, setAll_cons]

/-- Stamping protects exactly the listed cells, beside those protected already. -/
theorem stamp_p (g : Grid) (cells : List (Nat × Nat × Bool)) (x y : Nat) :
    (g.stamp cells).p.get x y = true ↔
      g.p.get x y = true ∨ (x < Config.gridDim ∧ y < Config.gridDim ∧ ∃ c ∈ cells, c.1 = x ∧ c.2.1 = y) := by
  induction cells generalizing g with
  | nil => simp
  | cons c cs ih =>
    rw [stamp_cons, ih, get_set]
    constructor
    · rintro (h | ⟨hx, hy, d, hd, h⟩)
      · split at h
        · next hc => exact .inr ⟨by omega, by omega, c, List.mem_cons_self, hc.1.symm, hc.2.1.symm⟩
        · exact .inl h
      · exact .inr ⟨hx, hy, d, List.mem_cons_of_mem _ hd, h⟩
    · rintro (h | ⟨hx, hy, d, hd, h1, h2⟩)
      · exact .inl (by split <;> simp [h])
      · rcases List.mem_cons.1 hd with rfl | hd
        · exact .inl (by rw [if_pos ⟨h1.symm, h2.symm, by omega, by omega⟩])
        · exact .inr ⟨hx, hy, d, hd, h1, h2⟩

/-- Every cell of an alignment pattern, by its offset in 0..4. -/
theorem alignmentCells_cases {cx cy : Nat} {d : Nat × Nat × Bool} (h : d ∈ alignmentCells cx cy) :
    ∃ i j, i < 5 ∧ j < 5 ∧ d = (cx + i - 2, cy + j - 2, decide (max (dist i 2) (dist j 2) ≠ 1)) := by
  simp only [alignmentCells, List.mem_flatMap, List.mem_map, List.mem_range] at h
  obtain ⟨j, hj, i, hi, rfl⟩ := h
  exact ⟨i, j, hi, hj, rfl⟩

/-- A cell within 2 of the centre is one of the pattern's. -/
theorem exists_alignmentCell {cx cy x y : Nat} (hcx : 2 ≤ cx) (hcy : 2 ≤ cy) (h : dist x cx ≤ 2 ∧ dist y cy ≤ 2) :
    ∃ d ∈ alignmentCells cx cy, d.1 = x ∧ d.2.1 = y := by
  unfold dist at h
  refine ⟨(cx + (x + 2 - cx) - 2, cy + (y + 2 - cy) - 2,
    decide (max (dist (x + 2 - cx) 2) (dist (y + 2 - cy) 2) ≠ 1)), ?_, by simp only; omega⟩
  simp only [alignmentCells, List.mem_flatMap, List.mem_map, List.mem_range]
  exact ⟨y + 2 - cy, by omega, x + 2 - cx, by omega, rfl⟩

/-- Inside an alignment pattern just stamped: its ring value, protected (43_grid.md R434). -/
theorem get_stamp_alignment_inside (g : Grid) {cx cy x y : Nat} (hcx : 2 ≤ cx) (hcy : 2 ≤ cy) (hx : x < Config.gridDim)
    (hy : y < Config.gridDim) (h : dist x cx ≤ 2 ∧ dist y cy ≤ 2) :
    (g.stamp (alignmentCells cx cy)).v.get x y = decide (max (dist x cx) (dist y cy) ≠ 1) ∧
      (g.stamp (alignmentCells cx cy)).p.get x y = true := by
  have hm := exists_alignmentCell hcx hcy h
  refine ⟨?_, (stamp_p ..).2 (.inr ⟨hx, hy, hm⟩)⟩
  rw [stamp_v]
  refine get_setAll_of_mem _ _ hx hy hm fun d hd h1 h2 => ?_
  obtain ⟨i, j, hi, hj, rfl⟩ := alignmentCells_cases hd
  simp only at h1 h2 ⊢
  rw [show dist i 2 = dist x cx by unfold dist; omega, show dist j 2 = dist y cy by unfold dist; omega]

/-- Outside an alignment pattern just stamped: as before. -/
theorem get_stamp_alignment_outside (g : Grid) {cx cy x y : Nat} (hcx : 2 ≤ cx) (hcy : 2 ≤ cy)
    (h : ¬ (dist x cx ≤ 2 ∧ dist y cy ≤ 2)) :
    (g.stamp (alignmentCells cx cy)).v.get x y = g.v.get x y ∧
      (g.stamp (alignmentCells cx cy)).p.get x y = g.p.get x y := by
  have hn : ∀ d ∈ alignmentCells cx cy, ¬ (d.1 = x ∧ d.2.1 = y) := by
    rintro d hd ⟨h1, h2⟩
    obtain ⟨i, j, hi, hj, rfl⟩ := alignmentCells_cases hd
    simp only at h1 h2
    unfold dist at h
    omega
  refine ⟨by rw [stamp_v, get_setAll_of_not_mem _ _ hn], ?_⟩
  rw [Bool.eq_iff_iff, stamp_p]
  exact ⟨fun h => h.elim id fun ⟨_, _, d, hd, hxy⟩ => absurd hxy (hn d hd), .inl⟩

@[simp] theorem reserve_v (g : Grid) (cells : List (Nat × Nat)) : (g.reserve cells).v = g.v := rfl

/-- Reserving protects exactly the listed cells, beside those protected already. -/
theorem reserve_p (g : Grid) (cells : List (Nat × Nat)) (x y : Nat) :
    (g.reserve cells).p.get x y = true ↔
      g.p.get x y = true ∨ (x < Config.gridDim ∧ y < Config.gridDim ∧ (x, y) ∈ cells) := by
  unfold Grid.reserve
  obtain ⟨v, p⟩ := g
  induction cells generalizing p with
  | nil => simp
  | cons c cs ih =>
    simp only [List.foldl_cons] at ih ⊢
    rw [ih, get_set, List.mem_cons]
    constructor
    · rintro (h | ⟨hx, hy, h⟩)
      · split at h
        · next hc => exact .inr ⟨by omega, by omega, .inl (by rw [hc.1, hc.2.1])⟩
        · exact .inl h
      · exact .inr ⟨hx, hy, .inr h⟩
    · rintro (h | ⟨hx, hy, rfl | h⟩)
      · exact .inl (by split <;> simp [h])
      · exact .inl (by rw [if_pos ⟨rfl, rfl, hx, hy⟩])
      · exact .inr ⟨hx, hy, h⟩

/-! ### RUN's stages (47_control.md R651) -/

@[simp] theorem runFrom_nil (s : State) (n : Nat) : runFrom [] s n = (s, n, none) := rfl

/-- One stage of RUN: either it completes and the rest runs on what it left, or RUN stops with its error. -/
theorem runFrom_cons (stage : State → Except ErrorCode State) (rest : List (State → Except ErrorCode State)) (s : State)
    (n : Nat) :
    (∃ t, stage s = .ok t ∧ runFrom (stage :: rest) s n = runFrom rest t (n + 1)) ∨
      (∃ e, stage s = .error e ∧ runFrom (stage :: rest) s n = (s, n, some e)) := by
  cases h : stage s with
  | ok t => exact .inl ⟨t, rfl, by simp [runFrom, h]⟩
  | error e => exact .inr ⟨e, rfl, by simp [runFrom, h]⟩

end Sys2Proof.Machine
end

