-- ==== Sys2Proof/Laws/Codewords.lean ====
section
/-! SUPPORT. The laws of the codeword commands' shared functions: how long each list is, and where it is stored. -/

namespace Sys2Proof.Machine

/-! ### Polynomials and the division (40_gf.md R305, 41_rs.md R352, R353) -/

/-- A product has degree the sum of the degrees (40_gf.md R305). -/
@[simp] theorem length_polyMul (p q : List Byte) : (polyMul p q).length = p.length + q.length - 1 := by simp [polyMul]

/-- Each factor of the generator adds one to its degree. -/
theorem length_genFold (is : List Nat) (g : List Byte) :
    (is.foldl (fun g i => polyMul g [0x01, gfExp i]) g).length = g.length + is.length := by
  induction is generalizing g with
  | nil => rfl
  | cons i is ih => rw [List.foldl_cons, ih]; simp; omega

/-- The generator of degree n has n + 1 coefficients (41_rs.md R352). -/
theorem length_genPoly {n : Nat} (h : 1 ≤ n) : (genPoly n).length = n + 1 := by
  rw [genPoly, length_genFold]; simp; omega

/-- The slots of a generator: its coefficients, then 0 (41_rs.md R360). -/
theorem generatorSlots_get (n : Nat) (i : Fin 31) :
    (generatorSlots n)[i] = if i.val ≤ n then (genPoly n).getD i.val 0 else 0 := by
  simp [generatorSlots]

@[simp] theorem length_divStep (g w : List Byte) (i : Nat) : (divStep g w i).length = w.length := by
  simp only [divStep]; split <;> simp

/-- The division changes no length. -/
@[simp] theorem length_divide (g w : List Byte) (k : Nat) : (divide g w k).length = w.length := by
  have : ∀ (is : List Nat) (w : List Byte), (is.foldl (divStep g) w).length = w.length := by
    intro is
    induction is with
    | nil => intro w; rfl
    | cons i is ih => intro w; rw [List.foldl_cons, ih, length_divStep]
  exact this _ _

/-- The remainder has as many codewords as the generator's degree (41_rs.md R353). -/
@[simp] theorem length_rsRem (data g : List Byte) : (rsRem data g).length = g.length - 1 := by simp [rsRem]

/-! ### Blocks (41_rs.md R350) -/

/-- The data codewords of the first n blocks. -/
theorem dataOffset_eq (c : CfgRegs) (n : Nat) :
    dataOffset c n =
      if n ≤ c.g0Blocks.toNat then n * c.g0Dcw.toNat
      else c.g0Blocks.toNat * c.g0Dcw.toNat + (n - c.g0Blocks.toNat) * c.g1Dcw.toNat := by
  induction n with
  | zero => simp [dataOffset]
  | succ n ih =>
    rw [dataOffset, List.range_succ, List.map_append, List.sum_append, ← dataOffset, ih]
    simp only [List.map_cons, List.map_nil, List.sum_cons, List.sum_nil, Nat.add_zero, blockLen]
    rcases Nat.lt_trichotomy n c.g0Blocks.toNat with h | h | h
    · rw [if_pos (by omega), if_pos h, if_pos (by omega), Nat.succ_mul]
    · rw [if_pos (by omega), if_neg (by omega), if_neg (by omega), h, Nat.add_sub_cancel_left, Nat.one_mul]
    · rw [if_neg (by omega), if_neg (by omega), if_neg (by omega), Nat.succ_sub (by omega), Nat.succ_mul]
      omega

/-- All blocks together hold TD data codewords. -/
theorem dataOffset_totalBlocks (c : CfgRegs) : dataOffset c (totalBlocks c) = totalData c := by
  rw [dataOffset_eq, totalBlocks, totalData]
  split
  · next h => rw [show c.g1Blocks.toNat = 0 by omega]; simp
  · rw [Nat.add_sub_cancel_left]

/-! ### Where the commands store -/

/-- The memory after encoding the first n blocks: what each address holds is what the last block that stores there wrote. -/
theorem lookup_encodeFold (s : State) (g : List Byte) (bs : List Nat) (m : Memory) (a : Nat)
    (h : ∀ b ∈ bs, a < 0x2000 + eccOffset s.cfg b ∨ 0x2000 + eccOffset s.cfg b + (g.length - 1) ≤ a) :
    (bs.foldl (fun m b => writeBuf m .ebuf (eccOffset s.cfg b) (rsRem (dataBlock s b) g)) m).lookup a = m.lookup a := by
  induction bs generalizing m with
  | nil => rfl
  | cons b bs ih =>
    rw [List.foldl_cons, ih _ fun b' hb' => h b' (List.mem_cons_of_mem _ hb'), lookup_writeBuf_outside]
    have := h b List.mem_cons_self
    rw [length_rsRem]
    exact this

/-- Encoding keeps the canonical form when every block's codewords fit EBUF. -/
theorem wf_encodeFold (s : State) (g : List Byte) (bs : List Nat) {m : Memory} (hm : m.wf = true)
    (h : ∀ b ∈ bs, eccOffset s.cfg b + (g.length - 1) ≤ Config.bufSize) :
    (bs.foldl (fun m b => writeBuf m .ebuf (eccOffset s.cfg b) (rsRem (dataBlock s b) g)) m).wf = true := by
  induction bs generalizing m with
  | nil => exact hm
  | cons b bs ih =>
    rw [List.foldl_cons]
    exact ih (wf_writeBuf hm .ebuf (by rw [length_rsRem]; exact h b List.mem_cons_self)) fun b' hb' =>
      h b' (List.mem_cons_of_mem _ hb')

end Sys2Proof.Machine
end

