-- ==== Sys2Proof/Laws/Symbol.lean ====
section
/-! SUPPORT. The laws of the symbol commands' shared functions: the walk, the content writer, the format cells, the runs and
the choice of the best mask. -/

namespace Sys2Proof.Machine

/-! ### The walk (44_placement.md R500) -/

theorem zigzagFrom_inside (size : Nat) {fuel right : Nat} {upward : Bool} (h : right < size) :
    ∀ c ∈ zigzagFrom size fuel right upward, c.1 < size ∧ c.2 < size := by
  induction fuel generalizing right upward with
  | zero => intro c hc; simp [zigzagFrom] at hc
  | succ fuel ih =>
    intro c hc
    rw [zigzagFrom] at hc
    split at hc
    · simp at hc
    · rcases List.mem_append.1 hc with hc | hc
      · simp only [columnPair, List.mem_flatMap, List.mem_range, List.mem_cons, List.not_mem_nil, or_false] at hc
        obtain ⟨t, ht, rfl | rfl⟩ := hc <;> simp only <;> split_ifs <;> omega
      · exact ih (by split <;> omega) c hc

/-- Every cell of the walk lies in the symbol. -/
theorem zigzag_inside (size : Nat) : ∀ c ∈ zigzag size, c.1 < size ∧ c.2 < size := by
  by_cases h : size = 0
  · subst h; intro c hc; simp [zigzag, zigzagFrom] at hc
  · exact zigzagFrom_inside size (by omega)

/-! ### The content writer (44_placement.md R502, R510) -/

/-- One cell of the walk: a protected cell is passed over, any other takes the next bit. -/
theorem placeStep_cases (p v : Plane) (bits : Nat → Bool) (i : Nat) (c : Nat × Nat) :
    (p.get c.1 c.2 = true ∧ placeStep p bits (v, i) c = (v, i)) ∨
      (p.get c.1 c.2 = false ∧ placeStep p bits (v, i) c = (v.set c.1 c.2 (bits i), i + 1)) := by
  cases h : p.get c.1 c.2 <;> simp [placeStep, gridWrite, h]

/-- A walk leaves every cell that it does not visit, and every protected one. -/
theorem get_placeFold_of_not (p : Plane) (bits : Nat → Bool) (walk : List (Nat × Nat)) (v : Plane) (i : Nat) {x y : Nat}
    (h : p.get x y = true ∨ (x, y) ∉ walk) : (walk.foldl (placeStep p bits) (v, i)).1.get x y = v.get x y := by
  induction walk generalizing v i with
  | nil => rfl
  | cons c cs ih =>
    have h' : p.get x y = true ∨ (x, y) ∉ cs := h.imp id fun hn hm => hn (List.mem_cons_of_mem _ hm)
    rw [List.foldl_cons]
    rcases placeStep_cases p v bits i c with ⟨_, e⟩ | ⟨hc, e⟩
    · rw [e, ih _ _ h']
    · rw [e, ih _ _ h', get_set, if_neg]
      rintro ⟨rfl, rfl, _⟩
      rcases h with h | h
      · rw [hc] at h; cases h
      · exact h List.mem_cons_self

/-! ### The masked plane (45_mask.md R531) -/

/-- A cell of the masked plane. -/
theorem get_masked (size m : Nat) (v p : Plane) (x y : Nat) :
    (masked size m v p).get x y =
      (decide (x < Config.gridDim) && decide (y < Config.gridDim) &&
        if x < size ∧ y < size ∧ p.get x y = false ∧ maskPred m y x = true then !v.get x y else v.get x y) := by
  rw [masked, get_ofFn]

/-! ### The format cells (46_format.md R603) -/

/-- Every format cell lies in the grid. -/
theorem formatWrites_inside {size : Nat} (h : 21 ≤ size) (f : BitVec 15) :
    ∀ c ∈ formatWrites size f, c.1 < size ∧ c.2.1 < size := by
  intro c hc
  simp only [formatWrites, List.mem_append, List.mem_map, List.mem_range] at hc
  rcases hc with ⟨i, hi, rfl⟩ | ⟨i, hi, rfl⟩
  · simp only [formatCell1]; split_ifs <;> simp <;> omega
  · simp only [formatCell2]; split_ifs <;> simp <;> omega

/-- Every version cell lies in the grid. -/
theorem versionWrites_inside {size : Nat} (h : 45 ≤ size) (w : BitVec 18) :
    ∀ c ∈ versionWrites size w, c.1 < size ∧ c.2.1 < size := by
  intro c hc
  simp only [versionWrites, versionCell, List.mem_flatMap, List.mem_range, List.map_cons, List.map_nil, List.mem_cons,
    List.not_mem_nil, or_false] at hc
  obtain ⟨i, hi, rfl | rfl⟩ := hc <;> simp <;> omega

/-! ### Runs (45_mask.md R532) -/

/-- The runs of a line cover it. -/
theorem sum_runsFrom (b : Bool) (n : Nat) (cs : List Bool) : (runsFrom b n cs).sum = n + cs.length := by
  induction cs generalizing b n with
  | nil => simp [runsFrom]
  | cons c cs ih =>
    rw [runsFrom]
    split
    · rw [ih, List.length_cons]; omega
    · rw [List.sum_cons, ih, List.length_cons]; omega

/-- The runs of a line cover it. -/
theorem sum_runs (line : List Bool) : (runs line).sum = line.length := by
  cases line with
  | nil => rfl
  | cons b bs => rw [runs, sum_runsFrom, List.length_cons]; omega

/-! ### The choice of the mask (45_mask.md R537) -/

/-- The fold of the selection keeps the smallest total seen so far, the first on a tie. -/
theorem pickFold (total : Nat → Nat) (k : Nat) :
    let best := (List.range' 1 k).foldl (fun best m => if total m < total best then m else best) 0
    best ≤ k ∧ (∀ m, m ≤ k → total best ≤ total m) ∧ ∀ m, m < best → total best < total m := by
  induction k with
  | zero => exact ⟨Nat.le_refl 0, fun m hm => by rw [Nat.le_zero.1 hm]; exact Nat.le_refl _, fun m hm => absurd hm (by simp)⟩
  | succ k ih =>
    rw [List.range'_concat, List.foldl_append]
    simp only [Nat.one_mul, List.foldl_cons, List.foldl_nil] at ih ⊢
    obtain ⟨hk, hmin, hlow⟩ := ih
    split
    · next hlt =>
      refine ⟨by omega, fun m hm => ?_, fun m hm => ?_⟩
      · rcases Nat.lt_or_ge m (1 + k) with h | h
        · exact Nat.le_trans (Nat.le_of_lt hlt) (hmin m (by omega))
        · rw [show m = 1 + k by omega]
      · exact Nat.lt_of_lt_of_le hlt (hmin m (by omega))
    · next hge =>
      refine ⟨by omega, fun m hm => ?_, hlow⟩
      rcases Nat.lt_or_ge m (1 + k) with h | h
      · exact hmin m (by omega)
      · rw [show m = 1 + k by omega]; omega

/-- The selection is the lowest id among those of smallest total. -/
theorem pickBest_spec (total : Nat → Nat) :
    pickBest total < 8 ∧ (∀ m, m < 8 → total (pickBest total) ≤ total m) ∧
      ∀ m, m < pickBest total → total (pickBest total) < total m := by
  obtain ⟨h, hmin, hlow⟩ := pickFold total 7
  exact ⟨Nat.lt_succ_of_le h, fun m hm => hmin m (Nat.le_of_lt_succ hm), hlow⟩

end Sys2Proof.Machine
end

