-- ==== Sys2Proof/Laws/Commands.lean ====
section
/-! SUPPORT. What each command's effect is when it raises no error: its conditions and the state it leaves. And that the stages
of RUN do not read the report of the command before. -/

namespace Sys2Proof.Machine

/-! ### One inversion lemma per command -/

theorem effGfDiv_ok {a b : Byte} {s t : State} (h : effGfDiv a b s = .ok t) :
    b ≠ 0 ∧ t = { s with result := toResult (gfDiv a b) } := by
  unfold effGfDiv at h
  split at h
  · cases h
  · exact ⟨‹_›, by injection h with h; exact h.symm⟩

theorem effGfLog_ok {a : Byte} {s t : State} (h : effGfLog a s = .ok t) :
    a ≠ 0 ∧ t = { s with result := BitVec.ofNat 32 (gfLog a) } := by
  unfold effGfLog at h
  split at h
  · cases h
  · exact ⟨‹_›, by injection h with h; exact h.symm⟩

theorem effRsGen_ok {n : Nat} {s t : State} (h : effRsGen n s = .ok t) :
    1 ≤ n ∧ n ≤ Config.nEccMax ∧ t = setGenerator n s := by
  unfold effRsGen at h
  split at h
  · cases h
  · exact ⟨by omega, by omega, by injection h with h; exact h.symm⟩

/-- The generator RS_ENC divides by: slots 0 to GEN_DEG of GEN. -/
def heldGenerator (s : State) : List Byte := (List.range (s.genDeg.toNat + 1)).map fun i => s.gen.toList.getD i 0

@[simp] theorem length_heldGenerator (s : State) : (heldGenerator s).length = s.genDeg.toNat + 1 := by
  simp [heldGenerator]

theorem effRsEnc_ok {k : Nat} {s t : State} (h : effRsEnc k s = .ok t) :
    s.genDeg.toNat ≠ 0 ∧ s.cfg.rsSrc.toNat + k ≤ Config.bufSize ∧
      s.cfg.rsDst.toNat + s.genDeg.toNat ≤ Config.bufSize ∧
      t = { s with
        mem := writeBuf s.mem .ebuf s.cfg.rsDst.toNat
          (rsRem (bufBytes s .dbuf s.cfg.rsSrc.toNat k) (heldGenerator s)) } := by
  unfold effRsEnc at h
  simp only at h
  split at h
  · cases h
  · split at h
    · cases h
    · exact ⟨‹_›, by omega, by omega, by injection h with h; exact h.symm⟩

theorem effRsAll_ok {s t : State} (h : effRsAll s = .ok t) :
    profileOk s.cfg ∧
      t = setGenerator s.cfg.necc.toNat { s with mem := encodeBlocks s (genPoly s.cfg.necc.toNat) } := by
  unfold effRsAll at h
  split at h
  · exact ⟨‹_›, by injection h with h; exact h.symm⟩
  · cases h

theorem effIlv_ok {s t : State} (h : effIlv s = .ok t) :
    profileOk s.cfg ∧
      t = { s with
        mem := writeBuf s.mem .ibuf 0 (interleaved s)
        cwCount := BitVec.ofNat 13 (totalData s.cfg + totalEcc s.cfg) } := by
  unfold effIlv at h
  split at h
  · exact ⟨‹_›, by injection h with h; exact h.symm⟩
  · cases h

theorem effGridInit_ok {s t : State} (h : effGridInit s = .ok t) :
    1 ≤ s.cfg.version.toNat ∧ s.cfg.version.toNat ≤ 40 ∧
      (2 ≤ s.cfg.version.toNat → alnCoordsOk (sizeOfVersion s.cfg.version.toNat) (alnCoords s.cfg)) ∧
      t = { s with
        v := (freshGrid s.cfg.version.toNat s.cfg.ctrl.alnMode (alnCoords s.cfg)).v
        p := (freshGrid s.cfg.version.toNat s.cfg.ctrl.alnMode (alnCoords s.cfg)).p
        gridInfo := ⟨BitVec.ofNat 8 (sizeOfVersion s.cfg.version.toNat), BitVec.ofNat 6 s.cfg.version.toNat⟩
        status := { s.status with gv := true, masked := false } } := by
  unfold effGridInit at h
  simp only at h
  split at h
  · cases h
  · next h1 =>
    split at h
    · cases h
    · next h2 =>
      have h1' : ¬ (s.cfg.version.toNat < 1 ∨ 40 < s.cfg.version.toNat) := h1
      refine ⟨by omega, by omega, fun hv => ?_, by injection h with h; exact h.symm⟩
      by_contra hc
      exact h2 ⟨hv, hc⟩

theorem effGridWr_ok {x y : Nat} {d f : Bool} {s t : State} (h : effGridWr x y d f s = .ok t) :
    s.status.gv = true ∧ x < gridSize s ∧ y < gridSize s ∧
      t = { s with
        v := (gridWrite s.v s.p x y d f).2
        result := toResult (BitVec.ofBool (gridWrite s.v s.p x y d f).1) } := by
  obtain ⟨hg, hx, hy, h⟩ := withCell_ok h
  exact ⟨hg, hx, hy, by injection h with h; exact h.symm⟩

theorem effGridRd_ok {x y : Nat} {s t : State} (h : effGridRd x y s = .ok t) :
    s.status.gv = true ∧ x < gridSize s ∧ y < gridSize s ∧
      t = { s with result := toResult (BitVec.ofBool (s.p.get x y) ++ BitVec.ofBool (s.v.get x y)) } := by
  obtain ⟨hg, hx, hy, h⟩ := withCell_ok h
  exact ⟨hg, hx, hy, by injection h with h; exact h.symm⟩

theorem effGridRsv_ok {x y : Nat} {s t : State} (h : effGridRsv x y s = .ok t) :
    s.status.gv = true ∧ x < gridSize s ∧ y < gridSize s ∧ t = { s with p := s.p.set x y true } := by
  obtain ⟨hg, hx, hy, h⟩ := withCell_ok h
  exact ⟨hg, hx, hy, by injection h with h; exact h.symm⟩

theorem effPlace_ok {s t : State} (h : effPlace s = .ok t) :
    s.status.gv = true ∧ s.status.masked = false ∧ s.cwCount.toNat ≤ Config.bufSize ∧
      8 * s.cwCount.toNat ≤ unprotectedCount s.p (gridSize s) ∧
      t = { s with
        v := placeBits s.v s.p (contentBit s) (zigzag (gridSize s))
        placed := BitVec.ofNat 16 (8 * s.cwCount.toNat)
        remBits := BitVec.ofNat 16 (unprotectedCount s.p (gridSize s) - 8 * s.cwCount.toNat) } := by
  obtain ⟨hg, h⟩ := withGrid_ok h
  obtain ⟨hm, h⟩ := withUnmasked_ok h
  simp only at h
  split at h
  · cases h
  · split at h
    · cases h
    · exact ⟨hg, hm, by omega, by omega, by injection h with h; exact h.symm⟩

theorem effMaskScore_ok {m : Nat} {s t : State} (h : effMaskScore m s = .ok t) :
    m < 8 ∧ s.status.gv = true ∧ s.status.masked = false ∧
      t = { s with
        pens := (candidatePenalties s m).toPens
        scores := s.scores.setIfInBounds m (BitVec.ofNat 32 (candidatePenalties s m).total) } := by
  obtain ⟨hm, h⟩ := withMaskId_ok h
  obtain ⟨hg, h⟩ := withGrid_ok h
  obtain ⟨hu, h⟩ := withUnmasked_ok h
  exact ⟨hm, hg, hu, by injection h with h; exact h.symm⟩

theorem effMaskApply_ok {m : Nat} {s t : State} (h : effMaskApply m s = .ok t) :
    m < 8 ∧ s.status.gv = true ∧ s.status.masked = false ∧ t = applyMask m s := by
  obtain ⟨hm, h⟩ := withMaskId_ok h
  obtain ⟨hg, h⟩ := withGrid_ok h
  obtain ⟨hu, h⟩ := withUnmasked_ok h
  exact ⟨hm, hg, hu, by injection h with h; exact h.symm⟩

/-- The mask MASK_AUTO chooses. -/
def bestMask (s : State) : Nat := pickBest fun m => ((List.range 8).map (score s)).getD m 0

/-- It is the choice from the totals. -/
theorem bestMask_lt (s : State) : bestMask s < 8 := (pickBest_spec _).1

theorem effMaskAuto_ok {s t : State} (h : effMaskAuto s = .ok t) :
    s.status.gv = true ∧ s.status.masked = false ∧
      t = { applyMask (bestMask s) s with
        scores := Vector.ofFn fun m => BitVec.ofNat 32 (((List.range 8).map (score s)).getD m.val 0)
        pens := (candidatePenalties s (bestMask s)).toPens } := by
  obtain ⟨hg, h⟩ := withGrid_ok h
  obtain ⟨hu, h⟩ := withUnmasked_ok h
  exact ⟨hg, hu, by injection h with h; exact h.symm⟩

theorem effFmtEnc_ok {m : Nat} {s t : State} (h : effFmtEnc m s = .ok t) :
    m < 8 ∧ t = { s with fmt := fmtWord s.cfg.eccl (BitVec.ofNat 3 m) } := by
  obtain ⟨hm, h⟩ := withMaskId_ok h
  exact ⟨hm, by injection h with h; exact h.symm⟩

theorem effFmtWr_ok {s t : State} (h : effFmtWr s = .ok t) :
    s.status.gv = true ∧ t = { s with v := s.v.setAll (formatWrites (gridSize s) s.fmt) } := by
  obtain ⟨hg, h⟩ := withGrid_ok h
  exact ⟨hg, by injection h with h; exact h.symm⟩

theorem effVinfoWr_ok {s t : State} (h : effVinfoWr s = .ok t) :
    s.status.gv = true ∧ 7 ≤ s.gridInfo.gver.toNat ∧
      t = { s with v := s.v.setAll (versionWrites (gridSize s) s.cfg.vinfo) } := by
  obtain ⟨hg, h⟩ := withGrid_ok h
  split at h
  · cases h
  · exact ⟨hg, by omega, by injection h with h; exact h.symm⟩

/-! ### The stages of RUN do not read the report (47_control.md R651) -/

/-- Two states that differ at most in the engine and in DONE, ERR and ERRCODE. -/
def SameButReport (s t : State) : Prop :=
  ∃ (e : Engine) (done err : Bool) (code : BitVec 4),
    t = { s with engine := e, status := { s.status with done := done, err := err, errcode := code } }

theorem complete_sameButReport (e : Option ErrorCode) (s : State) : SameButReport s (complete e s) := by
  cases e with
  | none => exact ⟨_, _, _, _, rfl⟩
  | some e => exact ⟨_, _, _, _, rfl⟩

/-- A stage raises the same error from both, or leaves two such states. -/
theorem stage_sameButReport {f : State → Except ErrorCode State} (hf : f ∈ runStages) {s t : State}
    (h : SameButReport s t) :
    (∃ s' t', f s = .ok s' ∧ f t = .ok t' ∧ SameButReport s' t') ∨ ∃ e, f s = .error e ∧ f t = .error e := by
  obtain ⟨e, done, err, code, rfl⟩ := h
  simp only [runStages, List.mem_cons, List.not_mem_nil, or_false] at hf
  rcases hf with rfl | rfl | rfl | rfl | rfl | rfl
  · unfold effRsAll; dsimp only; split
    · exact .inl ⟨_, _, rfl, rfl, e, done, err, code, rfl⟩
    · exact .inr ⟨_, rfl, rfl⟩
  · unfold effIlv; dsimp only; split
    · exact .inl ⟨_, _, rfl, rfl, e, done, err, code, rfl⟩
    · exact .inr ⟨_, rfl, rfl⟩
  · unfold effGridInit; dsimp only; split
    · exact .inr ⟨_, rfl, rfl⟩
    · split
      · exact .inr ⟨_, rfl, rfl⟩
      · exact .inl ⟨_, _, rfl, rfl, e, done, err, code, rfl⟩
  · unfold effPlace withGrid withUnmasked; dsimp only [gridSize]; split
    · split
      · exact .inr ⟨_, rfl, rfl⟩
      · split
        · exact .inr ⟨_, rfl, rfl⟩
        · by_cases hu : unprotectedCount s.p s.gridInfo.size.toNat < 8 * s.cwCount.toNat
          · exact .inr ⟨_, if_pos hu, if_pos hu⟩
          · exact .inl ⟨_, _, if_neg hu, if_neg hu, e, done, err, code, rfl⟩
    · exact .inr ⟨_, rfl, rfl⟩
  · unfold stageVersionInfo effVinfoWr withGrid; dsimp only; split
    · split
      · split
        · exact .inr ⟨_, rfl, rfl⟩
        · exact .inl ⟨_, _, rfl, rfl, e, done, err, code, rfl⟩
      · exact .inr ⟨_, rfl, rfl⟩
    · exact .inl ⟨_, _, rfl, rfl, e, done, err, code, rfl⟩
  · unfold effMaskAuto withGrid withUnmasked; dsimp only; split
    · split
      · exact .inr ⟨_, rfl, rfl⟩
      · refine .inl ⟨_, _, rfl, rfl, e, done, err, code, ?_⟩
        simp only [applyMask]
        rfl
    · exact .inr ⟨_, rfl, rfl⟩

end Sys2Proof.Machine
end

