-- ==== Sys2Proof/Laws/HostPort.lean ====
section
/-! SUPPORT. What a step is, event by event, and what a host access can do. -/

namespace Sys2Proof.Machine

/-! ### The step, event by event -/

theorem step_of_nil {s : State} (h : s.inputs = []) : step s = engineTurn (takeInput s) := by
  simp [step, nextInput, h]

theorem step_of_engine {s : State} {rest : List Input} (h : s.inputs = .engine :: rest) :
    step s = engineTurn (takeInput s) := by simp [step, nextInput, h]

theorem step_of_read {s : State} {a : HAddr} {rest : List Input} (h : s.inputs = .read a :: rest) :
    step s = .next (portRead a (takeInput s)) := by simp [step, nextInput, h]

theorem step_of_write {s : State} {a : HAddr} {d : Word} {rest : List Input} (h : s.inputs = .write a d :: rest) :
    step s = .next (portWrite a d (takeInput s)) := by simp [step, nextInput, h]

theorem step_of_rst {s : State} {b : Bool} {rest : List Input} (h : s.inputs = .rst b :: rest) :
    step s = .next (driveRst b (takeInput s)) := by simp [step, nextInput, h]

/-- The engine's turn: nothing while idle or held in reset; otherwise the command in flight, or its refusal. -/
theorem engineTurn_cases (s : State) :
    ((s.rst = true ∨ s.engine = .idle) ∧ engineTurn s = .next s) ∨
      ∃ c, s.rst = false ∧ s.engine = .busy c ∧
        ((∃ i, decode c = .ok i ∧ engineTurn s = exec i s) ∨
          ∃ r, decode c = .error r ∧ engineTurn s = .next (complete (some .illegalCmd) s)) := by
  unfold engineTurn commandInFlight
  cases hr : s.rst with
  | true => exact .inl ⟨.inl rfl, by simp⟩
  | false =>
    cases he : s.engine with
    | idle => exact .inl ⟨.inr rfl, by simp⟩
    | busy c =>
      refine .inr ⟨c, rfl, rfl, ?_⟩
      cases hd : decode c with
      | ok i => exact .inl ⟨i, rfl, by simp [hd]⟩
      | error r => exact .inr ⟨r, rfl, by simp [hd, refuseWord, conclude]⟩

/-! ### The address map (20_memory.md R152, R153, R157) -/

/-- Offsets without a register: not a word of the page's registers, or one of the holes. -/
theorem regAt_eq_none {n : Nat} (h : n = 0x6C ∨ 0x90 ≤ n) : regAt n = none := by
  unfold regAt
  split <;> first | rfl | omega

/-- Every other word of the first 0x90 bytes of the page holds a register. -/
theorem regAt_isSome {n : Nat} (h4 : n % 4 = 0) (hn : n < 0x90) (h : n ≠ 0x6C) : ∃ r, regAt n = some r := by
  have : ∀ k < 36, k ≠ 27 → ∃ r, regAt (4 * k) = some r := by
    intro k hk hk'
    interval_cases k <;> first | exact ⟨_, rfl⟩ | exact absurd rfl hk'
  obtain ⟨k, rfl⟩ : ∃ k, n = 4 * k := ⟨n / 4, by omega⟩
  exact this k (by omega) (by omega)

/-- Every register has a word-aligned offset (10_state.md R51). -/
theorem regAt_aligned {n : Nat} {r : Reg} (h : regAt n = some r) : n % 4 = 0 ∧ n < 0x90 := by
  have hlt : n < 0x90 := by
    by_contra hc
    rw [regAt_eq_none (by omega)] at h
    cases h
  refine ⟨?_, hlt⟩
  interval_cases n <;> first | rfl | cases h

theorem regionOf_misaligned {a : HAddr} (h : a.toNat % 4 ≠ 0) : regionOf a = .misaligned := by
  simp [regionOf, h]

theorem regionOf_reg {a : HAddr} {r : Reg} (h : regAt a.toNat = some r) : regionOf a = .reg r := by
  obtain ⟨h4, hlt⟩ := regAt_aligned h
  simp [regionOf, h4, show a.toNat < 0x400 by omega, h]

theorem regionOf_hole {a : HAddr} (h4 : a.toNat % 4 = 0) (hlt : a.toNat < 0x400) (h : a.toNat = 0x6C ∨ 0x90 ≤ a.toNat) :
    regionOf a = .unassigned := by
  simp [regionOf, h4, hlt, regAt_eq_none h]

theorem regionOf_gen {a : HAddr} (h4 : a.toNat % 4 = 0) (lo : 0x400 ≤ a.toNat) (hi : a.toNat < 0x500) :
    regionOf a = .gen ((a.toNat - 0x400) / 4) := by
  simp [regionOf, h4, hi, show ¬ a.toNat < 0x400 by omega]

theorem regionOf_buffer {a : HAddr} (h4 : a.toNat % 4 = 0) (lo : 0x1000 ≤ a.toNat) (hi : a.toNat < 0x4000) :
    regionOf a = .buffer a.toNat := by
  simp [regionOf, h4, hi, show ¬ a.toNat < 0x400 by omega, show ¬ a.toNat < 0x500 by omega,
    show ¬ a.toNat < 0x1000 by omega]

theorem regionOf_gridV {a : HAddr} (h4 : a.toNat % 4 = 0) (lo : 0x8000 ≤ a.toNat) (hi : a.toNat < 0xA000) :
    regionOf a = .gridV ((a.toNat - 0x8000) / 32) (a.toNat % 32 / 4) := by
  simp [regionOf, h4, hi, show ¬ a.toNat < 0x400 by omega, show ¬ a.toNat < 0x500 by omega,
    show ¬ a.toNat < 0x1000 by omega, show ¬ a.toNat < 0x4000 by omega, show ¬ a.toNat < 0x8000 by omega]

theorem regionOf_gridP {a : HAddr} (h4 : a.toNat % 4 = 0) (lo : 0xA000 ≤ a.toNat) (hi : a.toNat < 0xC000) :
    regionOf a = .gridP ((a.toNat - 0xA000) / 32) (a.toNat % 32 / 4) := by
  simp [regionOf, h4, hi, show ¬ a.toNat < 0x400 by omega, show ¬ a.toNat < 0x500 by omega,
    show ¬ a.toNat < 0x1000 by omega, show ¬ a.toNat < 0x4000 by omega, show ¬ a.toNat < 0x8000 by omega,
    show ¬ a.toNat < 0xA000 by omega]

theorem regionOf_gap {a : HAddr} (h4 : a.toNat % 4 = 0)
    (h : (0x500 ≤ a.toNat ∧ a.toNat < 0x1000) ∨ (0x4000 ≤ a.toNat ∧ a.toNat < 0x8000) ∨ 0xC000 ≤ a.toNat) :
    regionOf a = .unassigned := by
  have h0 : ¬ a.toNat < 0x400 := by omega
  have h1 : ¬ a.toNat < 0x500 := by omega
  rcases h with h | h | h
  · simp [regionOf, h4, h0, h1, h.2]
  · simp [regionOf, h4, h0, h1, h.2, show ¬ a.toNat < 0x1000 by omega, show ¬ a.toNat < 0x4000 by omega]
  · simp [regionOf, h4, h0, h1, show ¬ a.toNat < 0x1000 by omega, show ¬ a.toNat < 0x4000 by omega,
      show ¬ a.toNat < 0x8000 by omega, show ¬ a.toNat < 0xA000 by omega, show ¬ a.toNat < 0xC000 by omega]

/-! ### Host accesses -/

/-- A read while idle, or of an exact location: its data and response, and no other effect. -/
theorem hostRead_exact {a : HAddr} {s : State} (h : s.engine.isBusy = false ∨ (regionOf a).exactWhileBusy = true) :
    hostRead a s = { s with answer := some (.read (readRegion s (regionOf a)) (regionOf a).resp) } := by
  rcases h with h | h <;> simp [hostRead, h]

/-- Any other read while busy: a free value, and the count of free values moves on. -/
theorem hostRead_busy {a : HAddr} {s : State} (hb : s.engine.isBusy = true) (h : (regionOf a).exactWhileBusy = false) :
    hostRead a s = { s with answer := some (.read (Config.busyData s.draws a) .ok), draws := s.draws + 1 } := by
  simp [hostRead, hb, h]

/-- A write where nothing is mapped: no effect. -/
theorem hostWrite_unmapped {a : HAddr} (d : Word) {s : State} (h : (regionOf a).resp = .err) :
    hostWrite a d s = { s with answer := some (.wrote .err) } := by simp [hostWrite, h]

/-- A write while busy, but to STATUS: dropped. -/
theorem hostWrite_dropped {a : HAddr} (d : Word) {s : State} (h : (regionOf a).resp = .ok) (hb : s.engine.isBusy = true)
    (hs : regionOf a ≠ .reg .status) :
    hostWrite a d s = { s with status := { s.status with werr := true }, answer := some (.wrote .err) } := by
  simp [hostWrite, h, hb, hs]

/-- Any other write of a mapped location: performed. -/
theorem hostWrite_performed {a : HAddr} (d : Word) {s : State} (h : (regionOf a).resp = .ok)
    (hb : s.engine.isBusy = false ∨ regionOf a = .reg .status) :
    hostWrite a d s = { writeRegion s (regionOf a) d with answer := some (.wrote .ok) } := by
  rcases hb with hb | hb
  · simp [hostWrite, h, hb]
  · simp [hostWrite, hb, show (Region.reg Reg.status).resp = .ok from rfl]

/-- Bit 1 of a write to STATUS clears the report, bit 5 clears WERR, and nothing else changes (10_state.md R54). -/
theorem clear_eq (st : Status) (d : Word) :
    st.clear d =
      { st with
        done := st.done && !d.getLsbD 1
        err := st.err && !d.getLsbD 1
        errcode := if d.getLsbD 1 then 0 else st.errcode
        werr := st.werr && !d.getLsbD 5 } := by
  unfold Status.clear
  cases d.getLsbD 1 <;> cases d.getLsbD 5 <;> simp

end Sys2Proof.Machine
end

