-- ==== Sys2Proof/Laws/PerInstr.lean ====
section
/-! SUPPORT. Laws of every command as syntax, one lemma per constructor: its word has the fixed bits of its row of
opcode_table.json. -/

namespace Sys2Proof.Laws.TableBits

/-- The row of a command: bits 31 down to `lo` of its word are fixed at `value` (30_encoding.md R201 to R206, R208). -/
def fixedBits : Instr → Nat × Nat
  | .nop => (0, 0)
  | .gfMul _ _ => (16, 0x0100)
  | .gfDiv _ _ => (16, 0x0200)
  | .gfExp _ => (8, 0x030000)
  | .gfLog _ => (8, 0x040000)
  | .rsGen _ => (8, 0x100000)
  | .rsEnc _ => (8, 0x110000)
  | .rsAll => (0, 0x12000000)
  | .ilv => (0, 0x20000000)
  | .gridInit => (0, 0x30000000)
  | .gridWr _ _ _ _ => (18, 0xC40)
  | .gridRd _ _ => (16, 0x3200)
  | .gridRsv _ _ => (16, 0x3300)
  | .place => (0, 0x40000000)
  | .maskScore _ => (8, 0x500000)
  | .maskApply _ => (8, 0x510000)
  | .maskAuto => (0, 0x52000000)
  | .fmtEnc _ => (8, 0x600000)
  | .fmtWr => (0, 0x61000000)
  | .vinfoWr => (0, 0x62000000)
  | .run => (0, 0x70000000)

/-- A well-formed command's word has the fixed bits of its row. -/
def Statement (i : Instr) : Prop := i.WellFormed → (encode i).toNat / 2 ^ (fixedBits i).1 = (fixedBits i).2

theorem nop : Statement .nop := fun _ => by decide

theorem gfMul (a b : Byte) : Statement (.gfMul a b) := fun _ => by
  have := a.isLt
  have := b.isLt
  simp only [encode, Encode.formatAB, fixedBits, BitVec.toNat_ofNat]
  omega

theorem gfDiv (a b : Byte) : Statement (.gfDiv a b) := fun _ => by
  have := a.isLt
  have := b.isLt
  simp only [encode, Encode.formatAB, fixedBits, BitVec.toNat_ofNat]
  omega

theorem gfExp (v : Nat) : Statement (.gfExp v) := fun h => by
  simp only [Instr.WellFormed, Instr.wellFormed, fitsByte, decide_eq_true_eq] at h
  simp only [encode, Encode.formatB, fixedBits, BitVec.toNat_ofNat]
  omega

theorem gfLog (a : Byte) : Statement (.gfLog a) := fun _ => by
  have := a.isLt
  simp only [encode, Encode.formatB, fixedBits, BitVec.toNat_ofNat]
  omega

theorem rsGen (v : Nat) : Statement (.rsGen v) := fun h => by
  simp only [Instr.WellFormed, Instr.wellFormed, fitsByte, decide_eq_true_eq] at h
  simp only [encode, Encode.formatB, fixedBits, BitVec.toNat_ofNat]
  omega

theorem rsEnc (v : Nat) : Statement (.rsEnc v) := fun h => by
  simp only [Instr.WellFormed, Instr.wellFormed, fitsByte, decide_eq_true_eq] at h
  simp only [encode, Encode.formatB, fixedBits, BitVec.toNat_ofNat]
  omega

theorem rsAll : Statement .rsAll := fun _ => by decide

theorem ilv : Statement .ilv := fun _ => by decide

theorem gridInit : Statement .gridInit := fun _ => by decide

theorem gridWr (x y : Nat) (d f : Bool) : Statement (.gridWr x y d f) := fun h => by
  simp only [Instr.WellFormed, Instr.wellFormed, fitsByte, Bool.and_eq_true, decide_eq_true_eq] at h
  have := d.toNat_lt
  have := f.toNat_lt
  simp only [encode, Encode.formatXYW, fixedBits, BitVec.toNat_ofNat]
  omega

theorem gridRd (x y : Nat) : Statement (.gridRd x y) := fun h => by
  simp only [Instr.WellFormed, Instr.wellFormed, fitsByte, Bool.and_eq_true, decide_eq_true_eq] at h
  simp only [encode, Encode.formatXY, fixedBits, BitVec.toNat_ofNat]
  omega

theorem gridRsv (x y : Nat) : Statement (.gridRsv x y) := fun h => by
  simp only [Instr.WellFormed, Instr.wellFormed, fitsByte, Bool.and_eq_true, decide_eq_true_eq] at h
  simp only [encode, Encode.formatXY, fixedBits, BitVec.toNat_ofNat]
  omega

theorem place : Statement .place := fun _ => by decide

theorem maskScore (v : Nat) : Statement (.maskScore v) := fun h => by
  simp only [Instr.WellFormed, Instr.wellFormed, fitsByte, decide_eq_true_eq] at h
  simp only [encode, Encode.formatB, fixedBits, BitVec.toNat_ofNat]
  omega

theorem maskApply (v : Nat) : Statement (.maskApply v) := fun h => by
  simp only [Instr.WellFormed, Instr.wellFormed, fitsByte, decide_eq_true_eq] at h
  simp only [encode, Encode.formatB, fixedBits, BitVec.toNat_ofNat]
  omega

theorem maskAuto : Statement .maskAuto := fun _ => by decide

theorem fmtEnc (v : Nat) : Statement (.fmtEnc v) := fun h => by
  simp only [Instr.WellFormed, Instr.wellFormed, fitsByte, decide_eq_true_eq] at h
  simp only [encode, Encode.formatB, fixedBits, BitVec.toNat_ofNat]
  omega

theorem fmtWr : Statement .fmtWr := fun _ => by decide

theorem vinfoWr : Statement .vinfoWr := fun _ => by decide

theorem run : Statement .run := fun _ => by decide

end Sys2Proof.Laws.TableBits
end

