-- ==== Sys2Proof/Tests/Slice0.lean ====
section
/-! SUPPORT. The model's own tests: ill-formed commands, one word per command, single steps on small states, and a witness for
the hypotheses of every statement. Expected values are those of spec/, cited at each test. -/

namespace Sys2Proof.Tests

open Sys2Proof Sys2Proof.Machine Sys2Proof.Claims

-- The evaluations below run one after the other: together they would hold too many threads.
set_option Elab.async false

/-! ### Small states -/

/-- The state after the step that runs the command word `w` from `s`. -/
def post (w : Nat) (s : State) : State :=
  match step (s.withFetchWord 32 w) with
  | .next t => t
  | .fault _ => s
  | .refused _ => s

/-- The state after one step that takes one event. -/
def afterInput (e : Input) (s : State) : State :=
  match step { s with inputs := [e] } with
  | .next t => t
  | .fault _ => s
  | .refused _ => s

/-- The reset state with a configuration. -/
def withCfg (f : CfgRegs → CfgRegs) : State := { State.reset with cfg := f State.reset.cfg }

/-- STATUS as the host reads it after the command `w` from `s`. -/
def statusAfter (w : Nat) (s : State) : Word := statusWord (post w s)

/-- A plane from its rows as words, row 0 first. -/
def planeOf (rows : List Nat) : Plane := ⟨Vector.ofFn fun y => BitVec.ofNat _ (rows.getD y.val 0)⟩

/-- Planes V and P of a fresh version-1 grid (95_test_vectors.md section 2.4). -/
def freshV : Plane := planeOf (
  [0x1FC07F, 0x104041, 0x17405D, 0x17405D, 0x17405D, 0x104041, 0x1FD57F, 0, 0x40, 0, 0x40] ++
    [0, 0x40, 0x100, 0x7F, 0x41, 0x5D, 0x5D, 0x5D, 0x41, 0x7F])
def freshP : Plane := planeOf (
  [0x1FE1FF, 0x1FE1FF, 0x1FE1FF, 0x1FE1FF, 0x1FE1FF, 0x1FE1FF, 0x1FFFFF, 0x1FE1FF, 0x1FE1FF, 0x40, 0x40] ++
    [0x40, 0x40, 0x1FF, 0x1FF, 0x1FF, 0x1FF, 0x1FF, 0x1FF, 0x1FF, 0x1FF])

/-- Plane V of the placed, unmasked "Hello, world!" grid (95_test_vectors.md section 2.5). -/
def placedV : Plane := planeOf (
  [0x1FCE7F, 0x104441, 0x174E5D, 0x17405D, 0x17405D, 0x105A41, 0x1FD57F, 0x1000, 0x1A40, 0x13A738, 0xAE752] ++
    [0x22BAF, 0x144375, 0x77100, 0x8627F, 0xA2041, 0x1DEE5D, 0x7145D, 0x4A5D, 0x3A441, 0xDD87F])

/-- A state with a grid of these planes. -/
def onGrid (version size : Nat) (v p : Plane) (s : State) : State :=
  { s with
    v := v, p := p, gridInfo := ⟨BitVec.ofNat 8 size, BitVec.ofNat 6 version⟩
    status := { s.status with gv := true } }

/-- The fresh version-1 grid, level code 1. -/
def fresh1 : State := onGrid 1 21 freshV freshP (withCfg fun c => { c with eccl := 1 })

/-- The placed "Hello, world!" grid, level code 1. -/
def placed1 : State := onGrid 1 21 placedV freshP (withCfg fun c => { c with eccl := 1 })

/-- The "Hello, world!" data codewords (41_rs.md R362). -/
def hello : List Byte :=
  [0x40, 0xD4, 0x86, 0x56, 0xC6, 0xC6, 0xF2, 0xC2, 0x07, 0x76, 0xF7, 0x26, 0xC6, 0x42, 0x10, 0xEC, 0x11, 0xEC, 0x11]

/-- The "Hello, world!" ECC codewords (41_rs.md R362). -/
def helloEcc : List Byte := [0xF5, 0x13, 0x98, 0xBA, 0xDB, 0x72, 0x2D]

/-- The "Hello, world!" setup (47_control.md R651). -/
def helloState : State :=
  { withCfg fun c => { c with version := 1, eccl := 1, g0Blocks := 1, g0Dcw := 19, necc := 7 } with
    mem := writeBuf [] .dbuf 0 hello }

/-! ### Well-formedness: a term that each check refuses (30_encoding.md R213) -/

theorem test_illformed_gfExp : (Instr.gfExp 256).wellFormed = false := by decide
theorem test_illformed_rsGen : (Instr.rsGen 256).wellFormed = false := by decide
theorem test_illformed_rsEnc : (Instr.rsEnc 256).wellFormed = false := by decide
theorem test_illformed_gridWr_x : (Instr.gridWr 256 0 true true).wellFormed = false := by decide
theorem test_illformed_gridWr_y : (Instr.gridWr 0 256 true true).wellFormed = false := by decide
theorem test_illformed_gridRd_x : (Instr.gridRd 256 0).wellFormed = false := by decide
theorem test_illformed_gridRd_y : (Instr.gridRd 0 256).wellFormed = false := by decide
theorem test_illformed_gridRsv_x : (Instr.gridRsv 256 0).wellFormed = false := by decide
theorem test_illformed_gridRsv_y : (Instr.gridRsv 0 256).wellFormed = false := by decide
theorem test_illformed_maskScore : (Instr.maskScore 256).wellFormed = false := by decide
theorem test_illformed_maskApply : (Instr.maskApply 256).wellFormed = false := by decide
theorem test_illformed_fmtEnc : (Instr.fmtEnc 256).wellFormed = false := by decide

/-! ### Decoding: a word of every command, written from its format (30_encoding.md R201 to R206, R208) -/

/-- Format Z: the opcode, 24 zeros. -/
theorem test_decode_formatZ :
    decode 0b00000000_000000000000000000000000#32 = .ok .nop ∧ decode 0b00010010_000000000000000000000000#32 = .ok .rsAll ∧
      decode 0b00100000_000000000000000000000000#32 = .ok .ilv ∧
      decode 0b00110000_000000000000000000000000#32 = .ok .gridInit ∧
      decode 0b01000000_000000000000000000000000#32 = .ok .place ∧
      decode 0b01010010_000000000000000000000000#32 = .ok .maskAuto ∧
      decode 0b01100001_000000000000000000000000#32 = .ok .fmtWr ∧
      decode 0b01100010_000000000000000000000000#32 = .ok .vinfoWr ∧
      decode 0b01110000_000000000000000000000000#32 = .ok .run := by decide

/-- Format AB: opcode, 8 zeros, a, b. -/
theorem test_decode_formatAB :
    decode 0b00000001_00000000_01010011_11001010#32 = .ok (.gfMul 0x53 0xCA) ∧
      decode 0b00000010_00000000_10001111_11001010#32 = .ok (.gfDiv 0x8F 0xCA) := by decide

/-- Formats B and M: opcode, 16 zeros, the operand. -/
theorem test_decode_formatB :
    decode 0b00000011_0000000000000000_11111111#32 = .ok (.gfExp 255) ∧
      decode 0b00000100_0000000000000000_10001110#32 = .ok (.gfLog 0x8E) ∧
      decode 0b00010000_0000000000000000_00011110#32 = .ok (.rsGen 30) ∧
      decode 0b00010001_0000000000000000_00000011#32 = .ok (.rsEnc 3) ∧
      decode 0b01010000_0000000000000000_00000111#32 = .ok (.maskScore 7) ∧
      decode 0b01010001_0000000000000000_00001000#32 = .ok (.maskApply 8) ∧
      decode 0b01100000_0000000000000000_00000010#32 = .ok (.fmtEnc 2) := by decide

/-- Format XYW: opcode, 6 zeros, f, d, y, x. Format XY: opcode, 8 zeros, y, x. -/
theorem test_decode_formatXY :
    decode 0b00110001_000000_1_0_00001101_00001000#32 = .ok (.gridWr 8 13 false true) ∧
      decode 0b00110001_000000_0_1_00000001_00000010#32 = .ok (.gridWr 2 1 true false) ∧
      decode 0b00110010_00000000_00000000_00010100#32 = .ok (.gridRd 20 0) ∧
      decode 0b00110011_00000000_00001010_00001011#32 = .ok (.gridRsv 11 10) := by decide

/-- Reserved bits and opcodes (30_encoding.md R210, R215; 95_test_vectors.md sections 2.1, 2.4, 2.6, 2.8). -/
theorem test_decode_rejects :
    decode 0x00000001 = .error .reservedField ∧ decode 0x01FF0000 = .error .reservedField ∧
      decode 0x03000100 = .error .reservedField ∧ decode 0x31050000 = .error .reservedField ∧
      decode 0x32010000 = .error .reservedField ∧ decode 0x51000100 = .error .reservedField ∧
      decode 0x05000000 = .error .reservedOpcode ∧ decode 0x80000000 = .error .reservedOpcode := by decide

/-! ### Field commands (95_test_vectors.md section 2.1) -/

theorem test_nop_status : statusAfter 0x00000000 State.reset = 0x2 := by decide
theorem test_illegal_status : statusAfter 0x01FF0000 State.reset = 0x106 := by decide
theorem test_gfMul : (post 0x010053CA State.reset).result = 0x8F := by decide +kernel
theorem test_gfMul_wraps : (post 0x01008E8E State.reset).result = 0x47 := by decide +kernel
theorem test_gfDiv : (post 0x02000153 State.reset).result = 0x8C := by decide +kernel
theorem test_gfDiv_zero : statusAfter 0x02000000 State.reset = 0x206 := by decide +kernel
theorem test_gfExp : (post 0x03000008 State.reset).result = 0x1D := by decide +kernel
theorem test_gfExp_last : (post 0x030000FF State.reset).result = 0x01 := by decide +kernel
theorem test_gfLog : (post 0x0400008E State.reset).result = 0xFE := by decide +kernel
theorem test_gfLog_zero : statusAfter 0x04000000 State.reset = 0x306 := by decide +kernel

/-! ### Codeword commands (95_test_vectors.md sections 2.2, 2.3) -/

theorem test_rsGen :
    (post 0x10000007 State.reset).gen.toList.take 9 = [0x01, 0x7F, 0x7A, 0x9A, 0xA4, 0x0B, 0x44, 0x75, 0x00] := by
  decide +kernel
theorem test_rsGen_domain : statusAfter 0x1000001F State.reset = 0x406 := by decide +kernel

/-- A generator of degree 2 and three data codewords (41_rs.md R361). -/
def encState : State := { setGenerator 2 State.reset with mem := writeBuf [] .dbuf 0 [1, 2, 3] }

theorem test_rsEnc : bufBytes (post 0x11000003 encState) .ebuf 0 2 = [0x04, 0x04] := by decide +kernel
theorem test_rsEnc_range :
    statusAfter 0x11000002 { setGenerator 4 (withCfg fun c => { c with rsSrc := 4095 }) with mem := [] } = 0x606 := by
  decide +kernel
theorem test_rsAll_domain :
    statusAfter 0x12000000 (withCfg fun c => { c with g0Blocks := 255, g0Dcw := 255, necc := 30 }) = 0x406 := by
  decide +kernel

/-- The example of 42_interleave.md R410: two blocks of three and one of four. -/
def ilvState : State :=
  { withCfg fun c => { c with g0Blocks := 2, g0Dcw := 3, g1Blocks := 1, g1Dcw := 4, necc := 2 } with
    mem := writeBuf (writeBuf [] .dbuf 0 [0xA0, 0xA1, 0xA2, 0xB0, 0xB1, 0xB2, 0xC0, 0xC1, 0xC2, 0xC3]) .ebuf 0
      [0xE0, 0xE1, 0xF0, 0xF1, 0x90, 0x91] }

theorem test_ilv :
    bufBytes (post 0x20000000 ilvState) .ibuf 0 16 =
      [0xA0, 0xB0, 0xC0, 0xA1, 0xB1, 0xC1, 0xA2, 0xB2, 0xC2, 0xC3, 0xE0, 0xF0, 0x90, 0xE1, 0xF1, 0x91] := by
  decide +kernel
theorem test_ilv_count : (post 0x20000000 ilvState).cwCount = 16 := by decide +kernel

/-! ### Grid commands (95_test_vectors.md section 2.4) -/

theorem test_gridWr_refused :
    (fun t : State => (t.result, t.v.get 0 0)) (post 0x31000000 fresh1) = (0, true) := by decide +kernel
theorem test_gridWr_forced :
    (fun t : State => (t.result, t.v.get 0 0, t.p.get 0 0)) (post 0x31020000 fresh1) = (1, false, true) := by
  decide +kernel
theorem test_gridRd : (post 0x32000D08 fresh1).result = 3 := by decide +kernel
theorem test_gridRd_coord : statusAfter 0x32001500 fresh1 = 0x80E := by decide +kernel
theorem test_gridRsv : (post 0x31010A0A (post 0x33000A0A fresh1)).result = 0 := by decide +kernel
theorem test_gridRsv_no_grid : statusAfter 0x33000A0A State.reset = 0x706 := by decide +kernel

/-! ### Placement and masking (95_test_vectors.md sections 2.5, 2.6) -/

/-- The fresh grid with the "Hello, world!" codewords in IBUF. -/
def placeState : State := { fresh1 with mem := writeBuf [] .ibuf 0 (hello ++ helloEcc), cwCount := 26 }

/-- The truth tables of the predicates, rows 0 to 5 as bits, column 0 the highest. -/
theorem test_predicates :
    (List.range 8).map (fun m => (List.range 6).map fun r =>
      (List.range 6).foldl (fun n c => 2 * n + (maskPred m r c).toNat) 0) =
      [[0b101010, 0b010101, 0b101010, 0b010101, 0b101010, 0b010101],
        [0b111111, 0, 0b111111, 0, 0b111111, 0],
        [0b100100, 0b100100, 0b100100, 0b100100, 0b100100, 0b100100],
        [0b100100, 0b001001, 0b010010, 0b100100, 0b001001, 0b010010],
        [0b111000, 0b111000, 0b000111, 0b000111, 0b111000, 0b111000],
        [0b111111, 0b100000, 0b100100, 0b101010, 0b100100, 0b100000],
        [0b111111, 0b111000, 0b110110, 0b101010, 0b101101, 0b100011],
        [0b101010, 0b000111, 0b100011, 0b010101, 0b111000, 0b011100]] := by decide +kernel

/-- Single lines: the run penalty, and the pattern windows in both modes. -/
theorem test_line_penalties :
    let line (s : String) : List Bool := s.toList.map (· == '1')
    ([List.replicate 21 true, line "11111", line "111111", line "1111", line "11111011111"].map fun l =>
      ((runs l).map runPenalty).sum) = [19, 3, 4, 0, 6] ∧
    (["10111010000", "01000101111", "00001011101", "1011101000010111010000"].map fun s =>
      (patternWindows false (line s), patternWindows true (line s))) = [(1, 1), (1, 0), (0, 1), (2, 3)] := by
  decide +kernel

/-- The balance deviation of 441 cells. -/
theorem test_balance :
    ([0, 106, 220, 221, 230, 234, 236, 245, 265, 441].map fun dark => balanceDeviation dark 441) =
      [50, 25, 0, 0, 2, 3, 3, 5, 10, 50] := by decide +kernel
theorem test_maskApply :
    (fun t : State => (t.fmt, t.maskId, statusWord t)) (post 0x51000002 placed1) = (0x7DAA, 2, 0x1A) := by decide +kernel
theorem test_maskApply_twice : statusAfter 0x51000002 { placed1 with status := { placed1.status with masked := true } } =
    0xA1E := by decide +kernel

/-- The choice from the totals of the "Hello, world!" grid in the two modes, and on a tie. -/
theorem test_pickBest :
    pickBest (fun m => [394, 471, 285, 311, 404, 390, 490, 322].getD m 0) = 2 ∧
      pickBest (fun m => [474, 511, 345, 291, 474, 390, 450, 362].getD m 0) = 3 ∧ pickBest (fun _ => 7) = 0 := by decide
theorem test_maskAuto_masked : statusAfter 0x52000000 { placed1 with status := { placed1.status with masked := true } } =
    0xA1E := by decide +kernel

/-! ### Format and version information (46_format.md R602; 95_test_vectors.md section 2.7) -/

theorem test_format_words :
    (List.range 4).map (fun e => (List.range 8).map fun m => (fmtWord (BitVec.ofNat 2 e) (BitVec.ofNat 3 m)).toNat) =
      [[0x5412, 0x5125, 0x5E7C, 0x5B4B, 0x45F9, 0x40CE, 0x4F97, 0x4AA0],
        [0x77C4, 0x72F3, 0x7DAA, 0x789D, 0x662F, 0x6318, 0x6C41, 0x6976],
        [0x1689, 0x13BE, 0x1CE7, 0x19D0, 0x0762, 0x0255, 0x0D0C, 0x083B],
        [0x355F, 0x3068, 0x3F31, 0x3A06, 0x24B4, 0x2183, 0x2EDA, 0x2BED]] := by decide +kernel
theorem test_fmtEnc : (post 0x60000005 (withCfg fun c => { c with eccl := 2 })).fmt = 0x0255 := by decide +kernel

/-- Copy 1 down column 8, and copy 2 along row 8 from the right edge, of 0x77C4. -/
theorem test_fmtWr :
    let v := (post 0x61000000 { fresh1 with fmt := 0x77C4 }).v
    [0, 1, 2, 3, 4, 5, 7, 8].map (v.get 8) = [false, false, true, false, false, false, true, true] ∧
      [20, 19, 18, 17, 16, 15, 14, 13].map (v.get · 8) =
        [false, false, true, false, false, false, true, true] := by decide +kernel

/-- A version-7 grid with 0x07C94 in VINFO: columns 34 to 36 of rows 0 to 2, and columns 0 to 5 of row 34. -/
theorem test_vinfoWr :
    let v := (post 0x62000000 (onGrid 7 45 Plane.blank Plane.blank (withCfg fun c => { c with vinfo := 0x07C94 }))).v
    [34, 35, 36].map (v.get · 0) = [false, false, true] ∧ [34, 35, 36].map (v.get · 1) = [false, true, false] ∧
      [0, 1, 2, 3, 4, 5].map (v.get · 34) = [false, false, false, false, true, false] := by decide +kernel
theorem test_vinfoWr_version : statusAfter 0x62000000 fresh1 = 0x40E := by decide +kernel

/-! ### RUN (95_test_vectors.md section 2.8) -/

theorem test_run_reset :
    (fun t : State => (t.result, statusWord t)) (post 0x70000000 State.reset) = (0, 0x406) := by decide +kernel

/-! ### The host interface (95_test_vectors.md section 2.9) -/

theorem test_read_id : (afterInput (.read 0x000) State.reset).answer = some (.read 0x51524301 .ok) := by decide
theorem test_read_misaligned : (afterInput (.read 0x002) State.reset).answer = some (.read 0 .err) := by decide
theorem test_read_unassigned : (afterInput (.read 0x06C) State.reset).answer = some (.read 0 .err) := by decide
theorem test_write_version :
    readReg (afterInput (.write 0x014 0xFFFFFFFF) State.reset) .version = 0x3F := by decide
theorem test_write_busy :
    (fun t : State => (t.answer, statusWord t)) (afterInput (.write 0x014 2) (accept 0 State.reset)) =
      (some (.wrote .err), 0x21) := by decide
theorem test_gen_window :
    (afterInput (.read 0x404) (setGenerator 7 State.reset)).answer = some (.read 0x75440BA4 .ok) := by decide +kernel
theorem test_gridV_window : (afterInput (.read 0x8000) fresh1).answer = some (.read 0x001FC07F .ok) := by decide +kernel

/-! ### Witnesses: for every statement with hypotheses, states and operands that meet them, clause by clause -/

/-- A grid of version v with every cell protected but the square from (9, 9) on, and every cell light. -/
def guardPlane (size : Nat) : Plane :=
  ⟨Vector.ofFn fun y => BitVec.ofNat _ (if y.val < 9 then 2 ^ size - 1 else if y.val < size then 2 ^ 9 - 1 else 0)⟩

def gridOf (v : Nat) : State := onGrid v (17 + 4 * v) Plane.blank (guardPlane (17 + 4 * v)) State.reset

theorem guardPlane_get {size : Nat} (lo : 9 ≤ size) (hi : size ≤ 177) (x y : Nat) :
    (guardPlane size).get x y = true ↔ x < size ∧ y < size ∧ (x < 9 ∨ y < 9) := by
  have hg : Config.gridDim = 177 := rfl
  unfold Plane.get guardPlane
  by_cases hy : y < Config.gridDim
  · rw [dif_pos hy, Vector.getElem_ofFn]
    simp only [BitVec.getLsbD_ofNat]
    split
    · rw [Nat.testBit_two_pow_sub_one]; simp; omega
    · split
      · rw [Nat.testBit_two_pow_sub_one]; simp; omega
      · simp; omega
  · rw [dif_neg hy]; simp; omega

theorem gridOf_size {v : Nat} (hi : v ≤ 40) : gridSize (gridOf v) = 17 + 4 * v := by
  simp only [gridSize, gridOf, onGrid, BitVec.toNat_ofNat]; omega

theorem gridOf_version {v : Nat} (hi : v ≤ 40) : (gridOf v).gridInfo.gver.toNat = v := by
  simp only [gridOf, onGrid, BitVec.toNat_ofNat]; omega

/-- It is a grid in the sense of the invariant. -/
theorem gridOf_inv {v : Nat} (lo : 1 ≤ v) (hi : v ≤ 40) : (gridOf v).GridInv := by
  refine ⟨fun h => (nomatch h), fun _ => ?_⟩
  rw [gridOf_size hi, gridOf_version hi]
  refine ⟨lo, hi, rfl, fun x y h => ⟨get_blank x y, ?_⟩, fun x y h => ?_⟩
  · rw [Bool.eq_false_iff]
    show ¬ (guardPlane _).get x y = true
    rw [guardPlane_get (by omega) (by omega)]; omega
  · show (guardPlane _).get x y = true
    rw [guardPlane_get (by omega) (by omega)]; simp only [functionCell] at h; omega

/-- The same grid, masked. -/
def maskedGrid (v : Nat) : State := { gridOf v with status := { (gridOf v).status with masked := true } }

/-- The same grid, with a codeword count. -/
def countedGrid (v : Nat) (n : BitVec 13) : State := { gridOf v with cwCount := n }

theorem reset_gridInv : State.reset.GridInv := ⟨fun _ => rfl, fun h => (nomatch h)⟩

/-- A state in which the next event is a read, or a write. -/
def reading (a : HAddr) (s : State) : State := { s with inputs := [.read a], rst := false }
def writing (a : HAddr) (d : Word) (s : State) : State := { s with inputs := [.write a d], rst := false }

theorem reading_isNext (a : HAddr) (s : State) : readIsNext (reading a s) a := ⟨rfl, [], rfl⟩
theorem writing_isNext (a : HAddr) (d : Word) (s : State) : writeIsNext (writing a d s) a d := ⟨rfl, [], rfl⟩

theorem test_witness_DecodeOfEncode : (Instr.gridWr 255 255 true true).WellFormed ∧ (Instr.gridRd 0 0).WellFormed := by decide

theorem test_witness_DecodeAcceptsExactlyTheTable : decode 0x3103FFFF = .ok (.gridWr 255 255 true true) := by decide

theorem test_witness_StepRunsDecodedCommand :
    let s := State.reset.withFetchWord 32 0x70000000
    s.rst = false ∧ s.engine = .busy 0x70000000 ∧ engineIsNext s ∧ decode 0x70000000 = .ok .run :=
  ⟨rfl, rfl, .inl rfl, by decide⟩

theorem test_witness_IllegalWordRaisesIllegalCmd :
    let s := State.reset.withFetchWord 32 0x80000000
    s.rst = false ∧ s.engine = .busy 0x80000000 ∧ engineIsNext s ∧ ∀ row ∈ commandRows, ¬ matchesRow 0x80000000 row :=
  ⟨rfl, rfl, .inl rfl, by unfold matchesRow; decide +kernel⟩

theorem test_witness_BusyEngineCompletes :
    let s := { accept 0 State.reset with inputs := [.write 0x014 1, .read 0x008] }
    s.rst = false ∧ s.engine = .busy 0 ∧ ∀ b, Input.rst b ∉ s.inputs := ⟨rfl, rfl, by decide⟩

theorem test_witness_ErrorChangesOnlyStatus :
    (∃ t, exec (.gfDiv 1 0) State.reset = .next t ∧ t.status.err = true) ∧
      ∃ t, exec .run State.reset = .next t ∧ t.status.err = true := ⟨⟨_, rfl, rfl⟩, ⟨_, rfl, rfl⟩⟩

theorem test_witness_IrqIsEnableAndDone :
    ∃ t, exec .nop (withCfg fun c => { c with ctrl := ⟨true, false, false, false⟩ }) = .next t ∧ irq t = true :=
  ⟨_, rfl, rfl⟩

theorem test_witness_StepKeepsInvariant :
    let s := accept 0 State.reset
    s.Inv ∧ ∃ t, step s = .next t := by
  refine ⟨⟨⟨by decide, by decide, by decide, ?_, by decide⟩, .inl ⟨rfl, rfl⟩, ⟨fun _ => rfl, fun h => (nomatch h)⟩, rfl⟩, _, rfl⟩
  intro c h
  injection h with h
  exact ⟨h, rfl, rfl⟩

theorem test_witness_CommandsLeaveHostState : ∃ t, exec (.gfExp 1) State.reset = .next t ∧ t.status.err = false :=
  ⟨_, rfl, rfl⟩

theorem test_witness_ProtectionOnlyGrows :
    ∃ t, exec (.gridRsv 20 20) (gridOf 1) = .next t ∧ t.status.err = false := ⟨_, rfl, rfl⟩

theorem test_witness_FieldLaws : (1 : Byte) ≠ 0 ∧ (255 : Byte) ≠ 0 := by decide

theorem test_witness_GfDivIsInverseOfProduct : (0 : Byte) = 0 ∧ (1 : Byte) ≠ 0 := by decide

theorem test_witness_GfExpAndLogAreInverse : 255 < 256 ∧ (0 : Byte) = 0 ∧ (255 : Byte) ≠ 0 := by decide

theorem test_witness_RsGenBuildsTheGenerator :
    (0 < 1 ∨ 30 < 0) ∧ (31 < 1 ∨ 30 < 31) ∧ (1 ≤ 1 ∧ 1 ≤ 30) ∧ (1 ≤ 30 ∧ 30 ≤ 30) := by decide

theorem test_witness_RemainderMakesCodewordDivisible : (1 ≤ 1 ∧ 1 ≤ 30) ∧ (1 ≤ 30 ∧ 30 ≤ 30) := by decide

/-- A generator of degree 2, with a source at the last byte and a destination that ends the buffer. -/
def encEdge : State := setGenerator 2 (withCfg fun c => { c with rsSrc := 4095, rsDst := 4094 })

theorem test_witness_RsEncWritesTheRemainder :
    State.reset.genDeg = 0 ∧ (encEdge.genDeg ≠ 0 ∧ 4096 < encEdge.cfg.rsSrc.toNat + 2) ∧
      (encEdge.GenInv ∧ encEdge.genDeg ≠ 0 ∧ encEdge.cfg.rsSrc.toNat + 1 ≤ 4096 ∧
        encEdge.cfg.rsDst.toNat + encEdge.genDeg.toNat ≤ 4096) :=
  ⟨rfl, by decide, .inr ⟨by decide, by decide, rfl⟩, by decide⟩

/-- A profile that fills the buffers: 16 blocks of 226 data and 30 ECC codewords. -/
def fullProfile : State := withCfg fun c => { c with g0Blocks := 16, g0Dcw := 226, necc := 30 }

theorem test_witness_RsAllEncodesEveryBlock :
    ¬ profileOk State.reset.cfg ∧ profileOk helloState.cfg ∧ profileOk fullProfile.cfg := by decide

theorem test_witness_IlvWritesTheSequence :
    ¬ profileOk (withCfg fun c => { c with g0Blocks := 16, g0Dcw := 227, necc := 30 }).cfg ∧ profileOk ilvState.cfg ∧
      profileOk fullProfile.cfg := by decide

theorem test_witness_InterleavingPlaces :
    (2 < totalBlocks ilvState.cfg ∧ 3 < blockLen ilvState.cfg 2) ∧
      (2 < totalBlocks ilvState.cfg ∧ 1 < ilvState.cfg.necc.toNat) := by decide

/-- The reset state with a version, an alignment count and a first coordinate. -/
def versionCfg (v : BitVec 6) (count : BitVec 3) (c : Byte) (mode : Bool) : State :=
  withCfg fun r =>
    { r with version := v, alnCnt := count, aln := r.aln.set 0 c, ctrl := ⟨false, mode, false, false⟩ }

theorem versionCfg_accepts {v : BitVec 6} {count : BitVec 3} {c : Byte} {mode : Bool} (lo : 1 ≤ v.toNat)
    (hi : v.toNat ≤ 40) (hc : count.toNat ≤ 1) (h : count.toNat = 0 ∨ (2 ≤ c.toNat ∧ c.toNat ≤ 14 + 4 * v.toNat)) :
    initAccepts (versionCfg v count c mode) := by
  refine ⟨lo, hi, fun _ a => ?_⟩
  rintro ⟨i, hi, rfl⟩
  have hi : i.val < count.toNat := hi
  obtain ⟨i, hlt⟩ := i
  obtain rfl : i = 0 := by simp only at hi; omega
  show 2 ≤ ((State.reset.cfg.aln.set 0 c)[0]).toNat ∧ ((State.reset.cfg.aln.set 0 c)[0]).toNat ≤ (17 + 4 * v.toNat) - 3
  simp only [Vector.getElem_set_self]
  simp only at hi
  omega

theorem versionCfg_coord {v : BitVec 6} {c : Byte} {mode : Bool} : ((versionCfg v 1 c mode).cfg.aln[0]).toNat = c.toNat := by
  simp [versionCfg, withCfg]

theorem versionCfg_isCoord {v : BitVec 6} {c : Byte} {mode : Bool} {a : Nat} :
    isAlnCoord (versionCfg v 1 c mode) a ↔ a = c.toNat := by
  constructor
  · rintro ⟨⟨i, hlt⟩, hi, rfl⟩
    obtain rfl : i = 0 := by
      have hi : i < 1 := hi
      omega
    exact versionCfg_coord
  · rintro rfl
    exact ⟨0, Nat.zero_lt_one, versionCfg_coord⟩

theorem test_witness_GridInitBuildsGuardedGrid :
    ¬ initAccepts State.reset ∧ initAccepts (versionCfg 1 0 0 false) ∧ initAccepts (versionCfg 40 0 0 false) :=
  ⟨fun h => absurd h.1 (by decide), versionCfg_accepts (by decide) (by decide) (by decide) (.inl rfl),
    versionCfg_accepts (by decide) (by decide) (by decide) (.inl rfl)⟩

theorem test_witness_GridInitPlainPatterns :
    (initAccepts (versionCfg 1 1 0x30 false) ∨ initVersion (versionCfg 1 1 0x30 false) = 1) ∧
      (initAccepts (versionCfg 1 0 0 false) ∧ initVersion (versionCfg 1 0 0 false) = 1) ∧
      (initAccepts (versionCfg 40 0 0 false) ∧ (versionCfg 40 0 0 false).cfg.alnCnt = 0) :=
  ⟨.inr rfl, ⟨versionCfg_accepts (by decide) (by decide) (by decide) (.inl rfl), rfl⟩,
    versionCfg_accepts (by decide) (by decide) (by decide) (.inl rfl), rfl⟩

theorem test_witness_GridInitOneAlignmentPattern :
    (initAccepts (versionCfg 2 1 8 false) ∧ 2 ≤ initVersion (versionCfg 2 1 8 false) ∧
      ((versionCfg 2 1 8 false).cfg.aln[0]).toNat = 8 ∧ 8 ≤ 8) ∧
      (initAccepts (versionCfg 2 1 22 true) ∧ 2 ≤ initVersion (versionCfg 2 1 22 true) ∧
        ((versionCfg 2 1 22 true).cfg.aln[0]).toNat = 22 ∧ 8 ≤ 22) :=
  ⟨⟨versionCfg_accepts (by decide) (by decide) (by decide) (.inr (by decide)), by decide, versionCfg_coord, by decide⟩,
    versionCfg_accepts (by decide) (by decide) (by decide) (.inr (by decide)), by decide, versionCfg_coord, by decide⟩

/-- One pattern in either mode, at its corner and beside it; ALNMODE = 1 with a centre outside and one inside a finder region;
ALNMODE = 0 with a centre that is skipped. -/
theorem test_witness_AlignmentSkipRules :
    (initAccepts (versionCfg 2 1 22 true) ∧ 2 ≤ initVersion (versionCfg 2 1 22 true) ∧
      (versionCfg 2 1 22 true).cfg.ctrl.alnMode = true ∧ isAlnCoord (versionCfg 2 1 22 true) 22 ∧
        ¬ finderRegion (initSize (versionCfg 2 1 22 true)) 22 22) ∧
      (∀ mode, (placedCentres (versionCfg 2 1 22 mode)).find? (fun c => decide (inPattern c 24 20)) = some (22, 22) ∧
        ∀ c ∈ placedCentres (versionCfg 2 1 22 mode), ¬ inPattern c 19 20) ∧
      (initAccepts (versionCfg 2 1 6 true) ∧ 2 ≤ initVersion (versionCfg 2 1 6 true) ∧
        (versionCfg 2 1 6 true).cfg.ctrl.alnMode = true ∧
        ∀ cx cy, isAlnCoord (versionCfg 2 1 6 true) cx → isAlnCoord (versionCfg 2 1 6 true) cy →
          finderRegion (initSize (versionCfg 2 1 6 true)) cx cy) ∧
      (initAccepts (versionCfg 2 1 6 false) ∧ 2 ≤ initVersion (versionCfg 2 1 6 false) ∧
        (versionCfg 2 1 6 false).cfg.ctrl.alnMode = false ∧
        ∀ cx cy, isAlnCoord (versionCfg 2 1 6 false) cx → isAlnCoord (versionCfg 2 1 6 false) cy →
          finderRegion (initSize (versionCfg 2 1 6 false)) cx cy ∨ cx = 6 ∨ cy = 6) := by
  have hfinder : ∀ mode cx cy, isAlnCoord (versionCfg 2 1 6 mode) cx → isAlnCoord (versionCfg 2 1 6 mode) cy →
      finderRegion (initSize (versionCfg 2 1 6 mode)) cx cy := by
    intro mode cx cy hx hy
    rw [versionCfg_isCoord.1 hx, versionCfg_isCoord.1 hy]
    exact .inl (by decide)
  refine ⟨⟨versionCfg_accepts (by decide) (by decide) (by decide) (.inr (by decide)), by decide, rfl,
      versionCfg_isCoord.2 rfl, ?_⟩, fun mode => ?_,
    ⟨versionCfg_accepts (by decide) (by decide) (by decide) (.inr (by decide)), by decide, rfl, hfinder true⟩,
    versionCfg_accepts (by decide) (by decide) (by decide) (.inr (by decide)), by decide, rfl,
    fun cx cy hx hy => .inl (hfinder false cx cy hx hy)⟩
  · show ¬ finderRegion 25 22 22
    unfold finderRegion; omega
  · cases mode <;> decide +kernel

/-- Cells of the version-1 grid: outside it, protected, unprotected at both ends of the square. -/
theorem test_witness_GridWrIsGuarded :
    (State.reset.GridInv ∧ State.reset.status.gv = false) ∧
      ((gridOf 1).GridInv ∧ (gridOf 1).status.gv = true ∧ gridSize (gridOf 1) ≤ 21) ∧
      (20 < gridSize (gridOf 1) ∧ 8 < gridSize (gridOf 1) ∧ (gridOf 1).p.get 20 8 = true) ∧
      (20 < gridSize (gridOf 1) ∧ (gridOf 1).p.get 20 20 = false) ∧ (gridOf 1).p.get 9 9 = false :=
  ⟨⟨reset_gridInv, rfl⟩, ⟨gridOf_inv (by decide) (by decide), rfl, by decide⟩, by decide +kernel⟩

theorem test_witness_GridRdReadsAndGridRsvProtects :
    (State.reset.GridInv ∧ State.reset.status.gv = false) ∧
      (gridOf 40).GridInv ∧ (gridOf 40).status.gv = true ∧ gridSize (gridOf 40) ≤ 177 ∧ 176 < gridSize (gridOf 40) :=
  ⟨⟨reset_gridInv, rfl⟩, gridOf_inv (by decide) (by decide), rfl, by decide⟩

theorem test_witness_ZigzagIsTheBoustrophedonWalk :
    (1 ≤ 1 ∧ 1 ≤ 40 ∧ 2 * 9 < 21 - 1 ∧ 20 < 21) ∧ (1 ≤ 40 ∧ 40 ≤ 40 ∧ 2 * 87 < 177 - 1 ∧ 176 < 177) := by decide

theorem test_witness_PlaceChecksInOrder :
    State.reset.status.gv = false ∧
      ((maskedGrid 1).status.gv = true ∧ (maskedGrid 1).status.masked = true) ∧
      ((countedGrid 1 4097).status.gv = true ∧ (countedGrid 1 4097).status.masked = false ∧
        4096 < (countedGrid 1 4097).cwCount.toNat) ∧
      ((countedGrid 1 19).status.gv = true ∧ (countedGrid 1 19).status.masked = false ∧
        (countedGrid 1 19).cwCount.toNat ≤ 4096 ∧
        unprotectedCount (countedGrid 1 19).p (gridSize (countedGrid 1 19)) < 8 * (countedGrid 1 19).cwCount.toNat) := by decide +kernel

/-- 18 codewords fill the 144 unprotected cells exactly. -/
theorem test_witness_PlaceWritesContentInOrder :
    let s := countedGrid 1 18
    s.GridInv ∧ s.status.gv = true ∧ s.status.masked = false ∧ s.cwCount.toNat ≤ 4096 ∧
      8 * s.cwCount.toNat = unprotectedCount s.p (gridSize s) :=
  ⟨gridOf_inv (by decide) (by decide), by decide +kernel⟩

theorem test_witness_CandidateCells :
    (gridOf 1).GridInv ∧ (gridOf 1).status.gv = true ∧ 7 < 8 ∧
      (¬ formatCell (gridSize (gridOf 1)) 20 20 ∧ 20 < gridSize (gridOf 1) ∧ (gridOf 1).p.get 20 20 = false ∧
        maskPred 0 20 20 = true) ∧
      (¬ formatCell (gridSize (gridOf 1)) 0 0 ∧ (gridOf 1).p.get 0 0 = true) :=
  ⟨gridOf_inv (by decide) (by decide), rfl, by decide, by
    rw [gridOf_size (by decide)]; unfold formatCell; decide +kernel⟩

theorem test_witness_MaskScoreRecordsPenalties :
    8 ≤ 8 ∧ (7 < 8 ∧ State.reset.status.gv = false) ∧
      ((maskedGrid 1).status.gv = true ∧ (maskedGrid 1).status.masked = true) ∧
      ((gridOf 1).status.gv = true ∧ (gridOf 1).status.masked = false) := by decide +kernel

theorem test_witness_MaskApplyPutsTheCandidate :
    8 ≤ 255 ∧ (0 < 8 ∧ State.reset.status.gv = false) ∧
      ((maskedGrid 7).status.gv = true ∧ (maskedGrid 7).status.masked = true) ∧
      ((gridOf 7).status.gv = true ∧ (gridOf 7).status.masked = false) := by decide +kernel

theorem test_witness_MaskAutoPicksLowestScore :
    State.reset.status.gv = false ∧
      ((maskedGrid 1).status.gv = true ∧ (maskedGrid 1).status.masked = true) ∧
      ((gridOf 1).status.gv = true ∧ (gridOf 1).status.masked = false) := by decide +kernel

theorem test_witness_BalanceDeviationIsFloor : 0 < 441 ∧ 0 < gridSize (gridOf 1) := by decide

theorem test_witness_PenaltiesFitTheirRegisters : gridSize (gridOf 40) ≤ 177 := by decide

theorem test_witness_FmtEncIsBchCodeword : 8 ≤ 8 ∧ 7 < 8 := by decide

theorem test_witness_FmtWrWritesBothCopies :
    (State.reset.GridInv ∧ State.reset.status.gv = false) ∧ (gridOf 1).GridInv ∧ (gridOf 1).status.gv = true :=
  ⟨⟨reset_gridInv, rfl⟩, gridOf_inv (by decide) (by decide), rfl⟩

theorem test_witness_VinfoWrWritesBothBlocks :
    (State.reset.GridInv ∧ State.reset.status.gv = false) ∧
      ((gridOf 6).GridInv ∧ (gridOf 6).status.gv = true ∧ (gridOf 6).gridInfo.gver.toNat < 7) ∧
      ((gridOf 7).GridInv ∧ (gridOf 7).status.gv = true ∧ 7 ≤ (gridOf 7).gridInfo.gver.toNat) :=
  ⟨⟨reset_gridInv, rfl⟩, ⟨gridOf_inv (by decide) (by decide), rfl, by decide⟩, gridOf_inv (by decide) (by decide), rfl,
    by decide⟩

/-- RUN succeeds on the smallest profile. -/
theorem test_witness_RunSucceedsExactlyWhenConfigured :
    ∃ t, exec .run (withCfg fun c => { c with version := 1, g0Blocks := 1, g0Dcw := 1, necc := 1 }) = .next t ∧
      t.status.err = false := ⟨_, rfl, by decide +kernel⟩

theorem test_witness_UnmappedAccessHasNoEffect :
    misaligned 0x0001 ∧ misaligned 0xFFFF ∧
      (∀ a ∈ [0x6C, 0x90, 0x3FC, 0x500, 0xFFC, 0x4000, 0x7FFC, 0xC000, 0xFFFC], unassigned (BitVec.ofNat 16 a)) ∧
      readIsNext (reading 0x6C State.reset) 0x6C ∧ writeIsNext (writing 0xFFFC 1 State.reset) 0xFFFC 1 :=
  ⟨by unfold misaligned; decide +kernel, by unfold misaligned; decide +kernel, by unfold unassigned; decide +kernel, reading_isNext _ _,
    writing_isNext _ _ _⟩

theorem test_witness_BusyWritesAreDropped :
    (writing 0x8C 1 (accept 0 State.reset)).engine = .busy 0 ∧ writeIsNext (writing 0x8C 1 (accept 0 State.reset)) 0x8C 1 ∧
      (∀ a ∈ [0x0, 0x68, 0x70, 0x8C, 0x400, 0x4FC, 0x1000, 0x3FFC, 0x8000, 0xBFFC], mapped (BitVec.ofNat 16 a) ∧ a ≠ 0x008) ∧
      ¬ mapped 0x90 :=
  ⟨rfl, writing_isNext _ _ _, by unfold mapped misaligned unassigned; decide +kernel,
    by unfold mapped misaligned unassigned; decide +kernel⟩

theorem test_witness_BusyReads :
    (reading 0xBFFC (accept 0 State.reset)).engine = .busy 0 ∧ readIsNext (reading 0xBFFC (accept 0 State.reset)) 0xBFFC ∧
      ∀ a ∈ [0x0, 0x4, 0x8, 0xC, 0x10, 0xBFFC], mapped (BitVec.ofNat 16 a) :=
  ⟨rfl, reading_isNext _ _, by unfold mapped misaligned unassigned; decide +kernel⟩

theorem test_witness_IdleReadsHaveNoSideEffect :
    let s := { State.reset with inputs := [.read 0x8000, .read 0x8000] }
    s.rst = false ∧ s.engine = .idle ∧ s.inputs = .read 0x8000 :: .read 0x8000 :: [] := ⟨rfl, rfl, rfl⟩

theorem test_witness_IdleRegisterReads :
    (reading 0x08C State.reset).engine = .idle ∧ readIsNext (reading 0x08C State.reset) 0x08C ∧
      regAt (0x08C : HAddr).toNat = some (.score 7) ∧
      ((0x000 : HAddr).toNat, 0x51524301) ∈ registerTable (reading 0x000 State.reset) ∧
      ((0x08C : HAddr).toNat, 0) ∈ registerTable (reading 0x08C State.reset) :=
  ⟨rfl, reading_isNext _ _, rfl, by decide +kernel, by decide +kernel⟩

theorem test_witness_CommandAcceptance :
    (writeIsNext (writing 0x00C 7 State.reset) 0x00C 7 ∧ (writing 0x00C 7 State.reset).engine = .idle) ∧
      (writeIsNext (writing 0x00C 7 (accept 0 State.reset)) 0x00C 7 ∧
        (writing 0x00C 7 (accept 0 State.reset)).engine = .busy 0) :=
  ⟨⟨writing_isNext _ _ _, rfl⟩, writing_isNext _ _ _, rfl⟩

theorem test_witness_WritableRegistersReadBack :
    (0x044, 0x1FFF) ∈ rwRegisters ∧ (0x004, 0xF) ∈ rwRegisters ∧ (writing 0x044 1 State.reset).engine = .idle ∧
      writeIsNext (writing 0x044 1 State.reset) 0x044 1 := ⟨by decide, by decide, rfl, writing_isNext _ _ _⟩

theorem test_witness_ReadOnlyLocationsIgnoreWrites :
    (writing 0 1 State.reset).engine = .idle ∧ writeIsNext (writing 0 1 State.reset) 0 1 ∧
      ∀ a ∈ [0x0, 0x10, 0x40, 0x48, 0x68, 0x70, 0x8C, 0x400, 0x4FC, 0x8000, 0xBFFC], readOnly (BitVec.ofNat 16 a) :=
  ⟨rfl, writing_isNext _ _ _, by unfold readOnly; decide +kernel⟩

theorem test_witness_BufferWindowIsLittleEndian :
    (1023 < 1024 ∧ (0x3FFC : HAddr).toNat = Buffer.ibuf.base + 4 * 1023) ∧
      (0 < 1024 ∧ (0x1000 : HAddr).toNat = Buffer.dbuf.base + 4 * 0) ∧ (reading 0x3FFC State.reset).engine = .idle ∧
      readIsNext (reading 0x3FFC State.reset) 0x3FFC ∧ writeIsNext (writing 0x1000 1 State.reset) 0x1000 1 :=
  ⟨by decide, by decide, rfl, reading_isNext _ _, writing_isNext _ _ _⟩

theorem test_witness_GridAndGenWindows :
    (∀ a ∈ [0x8000, 0x9FFC, 0xA000, 0xBFFC, 0x400, 0x4FC], ¬ misaligned (BitVec.ofNat 16 a)) ∧ (reading 0xA000 (gridOf 1)).engine = .idle ∧
      readIsNext (reading 0xA000 (gridOf 1)) 0xA000 ∧ readIsNext (reading 0x4FC State.reset) 0x4FC ∧
      writeIsNext (writing 0xBFFC 1 State.reset) 0xBFFC 1 :=
  ⟨by unfold misaligned; decide +kernel, rfl, reading_isNext _ _, reading_isNext _ _, writing_isNext _ _ _⟩

/-- The pin held asserted, with accesses pending. -/
def heldInReset (e : Input) : State := { State.reset with rst := true, inputs := [e] }

theorem test_witness_ResetPinResets :
    ({ accept 0 State.reset with inputs := [.rst true, .rst false, .engine] } : State).inputs =
        .rst true :: .rst false :: [.engine] ∧
      ((heldInReset (.read 0x008)).rst = true ∧ (heldInReset (.read 0x008)).inputs = .read 0x008 :: []) ∧
      ((heldInReset (.write 0x00C 1)).rst = true ∧ (heldInReset (.write 0x00C 1)).inputs = .write 0x00C 1 :: []) :=
  ⟨rfl, ⟨rfl, rfl⟩, rfl, rfl⟩

theorem test_witness_CommandsAfterResetFail : 0 < 8 ∧ 7 < 8 := by decide

/-! ### The longer evaluations, last (95_test_vectors.md sections 2.2 to 2.8; 40_gf.md R301) -/

/-- The tables against their construction (40_gf.md R301): each entry of EXP is α times the one before, and LOG inverts EXP. -/
theorem test_tables :
    (∀ i < 255, gfExp (i + 1) = timesX (gfExp i)) ∧ gfExp 0 = 1 ∧ ∀ i < 255, gfLog (gfExp i) = i := by decide +kernel

theorem test_rsAll : bufBytes (post 0x12000000 helloState) .ebuf 0 7 = helloEcc := by decide +kernel

/-- Rows 6, 8 and 13 of the fresh version-1 grid. -/
theorem test_gridInit :
    (fun t : State => [6, 8, 13].map fun y => (t.v.rows.toList.getD y 0, t.p.rows.toList.getD y 0))
      (post 0x30000000 (withCfg fun c => { c with version := 1 })) =
      [(0x1FD57F, 0x1FFFFF), (0x40, 0x1FE1FF), (0x100, 0x1FF)] := by decide +kernel

/-- The two skip modes at the timing-line centre (22, 6) of version 7: cells (22, 6), (21, 5), (22, 4). -/
theorem test_gridInit_skip :
    let g mode := freshGrid 7 mode [6, 22, 38]
    let cell (g : Grid) x y := (g.p.get x y, g.v.get x y)
    (cell (g false) 22 6, cell (g false) 21 5, cell (g false) 22 4) = ((true, true), (false, false), (false, false)) ∧
      (cell (g true) 22 6, cell (g true) 21 5, cell (g true) 22 4) = ((true, true), (true, false), (true, true)) := by
  decide +kernel

/-- The cells of the first codeword, 0x40, and of the last, 0x2D. -/
theorem test_place :
    (fun t : State => ([(20, 20), (19, 20), (20, 19), (19, 19), (1, 11), (0, 11), (1, 12), (0, 12)].map
      fun c => t.v.get c.1 c.2, t.placed, t.remBits)) (post 0x40000000 placeState) =
      ([false, true, false, false, true, true, false, true], 208, 0) := by decide +kernel

theorem test_place_length : statusAfter 0x40000000 { placeState with cwCount := 27 } = 0x90E := by decide +kernel

theorem test_maskScore :
    (fun t : State => (t.pens, t.scores[2])) (post 0x50000002 placed1) = (⟨169, 96, 0, 20⟩, 285) := by decide +kernel

theorem test_run_length :
    (fun t : State => (t.result, statusWord t)) (post 0x70000000
      (withCfg fun c => { c with version := 1, g0Blocks := 1, g0Dcw := 20, necc := 7 })) = (3, 0x90E) := by decide +kernel

end Sys2Proof.Tests
end

section
/-! PROOF. The grid that GRID_INIT builds: where its cells lie and which it protects (43_grid.md R431 to R441). -/

namespace Sys2Proof.Machine

/-! ### Stages of the construction (43_grid.md R441) -/

/-- The grid with finders, timing lines and dark module. -/
def baseGrid (size : Nat) : Grid :=
  ((Grid.stamp ⟨Plane.blank, Plane.blank⟩ (allFinderCells size)).stamp (timingCells size)).stamp (darkModule size)

/-- The base grid with the alignment patterns of the centres that are not skipped. -/
def alignedGrid (v : Nat) (alnMode : Bool) (coords : List Nat) : Grid :=
  if 2 ≤ v then (alignmentCentres coords).foldl (alignAt alnMode (sizeOfVersion v)) (baseGrid (sizeOfVersion v))
  else baseGrid (sizeOfVersion v)

/-- The fresh grid is the aligned grid with its reservations. -/
theorem freshGrid_eq (v : Nat) (alnMode : Bool) (coords : List Nat) :
    freshGrid v alnMode coords =
      if 7 ≤ v then
        ((alignedGrid v alnMode coords).reserve (formatReserve (sizeOfVersion v))).reserve
          (versionReserve (sizeOfVersion v))
      else (alignedGrid v alnMode coords).reserve (formatReserve (sizeOfVersion v)) := rfl

/-! ### Cells outside the symbol stay 0 -/

/-- Both planes are 0 outside the symbol. -/
def Grid.Inside (size : Nat) (g : Grid) : Prop :=
  ∀ x y, size ≤ x ∨ size ≤ y → g.v.get x y = false ∧ g.p.get x y = false

theorem inside_blank (size : Nat) : Grid.Inside size ⟨Plane.blank, Plane.blank⟩ := fun _ _ _ => by simp

theorem inside_stamp {size : Nat} {g : Grid} {cells : List (Nat × Nat × Bool)} (hg : g.Inside size)
    (hc : ∀ c ∈ cells, c.1 < size ∧ c.2.1 < size) : (g.stamp cells).Inside size := by
  intro x y h
  have hn : ∀ c ∈ cells, ¬ (c.1 = x ∧ c.2.1 = y) := fun c hm hxy => by have := hc c hm; omega
  obtain ⟨hv, hp⟩ := hg x y h
  refine ⟨by rw [stamp_v, get_setAll_of_not_mem _ _ hn, hv], ?_⟩
  rw [Bool.eq_false_iff, Ne, stamp_p, hp]
  rintro (h | ⟨-, -, c, hm, hxy⟩)
  · cases h
  · exact hn c hm hxy

theorem inside_reserve {size : Nat} {g : Grid} {cells : List (Nat × Nat)} (hg : g.Inside size)
    (hc : ∀ c ∈ cells, c.1 < size ∧ c.2 < size) : (g.reserve cells).Inside size := by
  intro x y h
  obtain ⟨hv, hp⟩ := hg x y h
  refine ⟨hv, ?_⟩
  rw [Bool.eq_false_iff, Ne, reserve_p, hp]
  rintro (h | ⟨-, -, hm⟩)
  · cases h
  · have := hc _ hm; omega

theorem allFinderCells_inside (size : Nat) : ∀ c ∈ allFinderCells size, c.1 < size ∧ c.2.1 < size := by
  intro c hc
  simp only [allFinderCells, finderCells, List.mem_flatMap, List.mem_filterMap] at hc
  obtain ⟨f, -, j, -, i, -, h⟩ := hc
  split at h
  · cases h; simp only; omega
  · cases h

theorem mem_timingCells {size : Nat} {c : Nat × Nat × Bool} :
    c ∈ timingCells size ↔
      ∃ i, 8 ≤ i ∧ i < 8 + (size - 16) ∧ (c = (i, 6, i % 2 == 0) ∨ c = (6, i, i % 2 == 0)) := by
  simp [timingCells, List.mem_range'_1, and_assoc]

theorem timingCells_inside (size : Nat) : ∀ c ∈ timingCells size, c.1 < size ∧ c.2.1 < size := by
  intro c hc
  obtain ⟨i, _, _, rfl | rfl⟩ := mem_timingCells.1 hc <;> simp only <;> omega

theorem baseGrid_inside {size : Nat} (h : 9 ≤ size) : (baseGrid size).Inside size := by
  refine inside_stamp (inside_stamp (inside_stamp (inside_blank size) (allFinderCells_inside size))
    (timingCells_inside size)) fun c hc => ?_
  rw [darkModule, List.mem_singleton] at hc
  subst hc
  simp only
  omega

theorem mem_alignmentCentres {coords : List Nat} {c : Nat × Nat} :
    c ∈ alignmentCentres coords ↔ c.1 ∈ coords ∧ c.2 ∈ coords := by
  obtain ⟨cx, cy⟩ := c
  simp [alignmentCentres, and_comm]

/-- A centre considered leaves the grid or stamps its pattern (43_grid.md R436). -/
theorem alignAt_cases (alnMode : Bool) (size : Nat) (g : Grid) (c : Nat × Nat) :
    alignAt alnMode size g c = g ∨ alignAt alnMode size g c = g.stamp (alignmentCells c.1 c.2) := by
  unfold alignAt
  split
  · exact .inl rfl
  · exact .inr rfl

theorem alignAt_inside {alnMode : Bool} {size : Nat} {g : Grid} {c : Nat × Nat} (hg : g.Inside size)
    (hx : 2 ≤ c.1 ∧ c.1 ≤ size - 3) (hy : 2 ≤ c.2 ∧ c.2 ≤ size - 3) : (alignAt alnMode size g c).Inside size := by
  rcases alignAt_cases alnMode size g c with e | e <;> rw [e]
  · exact hg
  · refine inside_stamp hg fun d hd => ?_
    obtain ⟨i, j, hi, hj, rfl⟩ := alignmentCells_cases hd
    simp only
    omega

theorem alignFold_inside {alnMode : Bool} {size : Nat} {centres : List (Nat × Nat)} {g : Grid} (hg : g.Inside size)
    (hc : ∀ c ∈ centres, (2 ≤ c.1 ∧ c.1 ≤ size - 3) ∧ 2 ≤ c.2 ∧ c.2 ≤ size - 3) :
    (centres.foldl (alignAt alnMode size) g).Inside size := by
  induction centres generalizing g with
  | nil => exact hg
  | cons c cs ih =>
    obtain ⟨hx, hy⟩ := hc c List.mem_cons_self
    exact ih (alignAt_inside hg hx hy) fun d hd => hc d (List.mem_cons_of_mem _ hd)

theorem alignedGrid_inside {v : Nat} {alnMode : Bool} {coords : List Nat}
    (hc : 2 ≤ v → alnCoordsOk (sizeOfVersion v) coords) : (alignedGrid v alnMode coords).Inside (sizeOfVersion v) := by
  have hb : (baseGrid (sizeOfVersion v)).Inside (sizeOfVersion v) :=
    baseGrid_inside (by unfold sizeOfVersion; omega)
  unfold alignedGrid
  split
  · next hv =>
    refine alignFold_inside hb fun c hm => ?_
    obtain ⟨hx, hy⟩ := mem_alignmentCentres.1 hm
    exact ⟨hc hv _ hx, hc hv _ hy⟩
  · exact hb

theorem mem_formatReserve {size : Nat} {c : Nat × Nat} :
    c ∈ formatReserve size ↔
      (∃ i, i < 9 ∧ (c = (i, 8) ∨ c = (8, i))) ∨ (∃ i, i < 8 ∧ c = (size - 1 - i, 8)) ∨
        ∃ i, i < 7 ∧ c = (8, size - 1 - i) := by
  simp [formatReserve, eq_comm]

theorem mem_versionReserve {size : Nat} {c : Nat × Nat} :
    c ∈ versionReserve size ↔
      ∃ i, i < 18 ∧ (c = (size - 11 + i % 3, i / 3) ∨ c = (i / 3, size - 11 + i % 3)) := by
  simp [versionReserve, versionCell]

theorem formatReserve_inside {size : Nat} (h : 9 ≤ size) : ∀ c ∈ formatReserve size, c.1 < size ∧ c.2 < size := by
  intro c hc
  rcases mem_formatReserve.1 hc with ⟨i, hi, rfl | rfl⟩ | ⟨i, hi, rfl⟩ | ⟨i, hi, rfl⟩ <;> simp only <;> omega

theorem versionReserve_inside {size : Nat} (h : 11 ≤ size) : ∀ c ∈ versionReserve size, c.1 < size ∧ c.2 < size := by
  intro c hc
  obtain ⟨i, hi, rfl | rfl⟩ := mem_versionReserve.1 hc <;> simp only <;> omega

/-- Every cell GRID_INIT writes or protects lies in the symbol (43_grid.md R441). -/
theorem freshGrid_inside {v : Nat} {alnMode : Bool} {coords : List Nat}
    (hc : 2 ≤ v → alnCoordsOk (sizeOfVersion v) coords) : (freshGrid v alnMode coords).Inside (sizeOfVersion v) := by
  have hs : 17 ≤ sizeOfVersion v := by unfold sizeOfVersion; omega
  have hf := inside_reserve (alignedGrid_inside (alnMode := alnMode) hc) (formatReserve_inside (by omega))
  rw [freshGrid_eq]
  split
  · exact inside_reserve hf (versionReserve_inside (by omega))
  · exact hf

/-! ### Function patterns are protected -/

theorem stamp_p_mono {g : Grid} (cells : List (Nat × Nat × Bool)) {x y : Nat} (h : g.p.get x y = true) :
    (g.stamp cells).p.get x y = true := (stamp_p ..).2 (.inl h)

theorem reserve_p_mono {g : Grid} (cells : List (Nat × Nat)) {x y : Nat} (h : g.p.get x y = true) :
    (g.reserve cells).p.get x y = true := (reserve_p ..).2 (.inl h)

theorem alignFold_p_mono (alnMode : Bool) (size : Nat) (centres : List (Nat × Nat)) {g : Grid} {x y : Nat}
    (h : g.p.get x y = true) : (centres.foldl (alignAt alnMode size) g).p.get x y = true := by
  induction centres generalizing g with
  | nil => exact h
  | cons c cs ih =>
    refine ih ?_
    rcases alignAt_cases alnMode size g c with e | e <;> rw [e]
    · exact h
    · exact stamp_p_mono _ h

/-- The alignment patterns unprotect nothing. -/
theorem alignedGrid_p_mono (v : Nat) (alnMode : Bool) (coords : List Nat) {x y : Nat}
    (h : (baseGrid (sizeOfVersion v)).p.get x y = true) : (alignedGrid v alnMode coords).p.get x y = true := by
  unfold alignedGrid
  split
  · exact alignFold_p_mono _ _ _ h
  · exact h

/-- A cell of the 9×9 square around a finder, cut to the symbol, is one of its cells (43_grid.md R431). -/
theorem exists_finderCell {size fx fy x y : Nat} (hf : (fx, fy) ∈ finderCorners size) (hx : x < size) (hy : y < size)
    (h1 : fx ≤ x + 1 ∧ x + 1 < fx + 9) (h2 : fy ≤ y + 1 ∧ y + 1 < fy + 9) :
    ∃ c ∈ allFinderCells size, c.1 = x ∧ c.2.1 = y := by
  refine ⟨(fx + (x + 1 - fx) - 1, fy + (y + 1 - fy) - 1, finderValue (x + 1 - fx) (y + 1 - fy)), ?_, ?_⟩
  · simp only [allFinderCells, finderCells, List.mem_flatMap, List.mem_filterMap, List.mem_range]
    exact ⟨_, hf, y + 1 - fy, by omega, x + 1 - fx, by omega, if_pos (by simp only; omega)⟩
  · simp only; omega

section
variable {size x y : Nat} (hx : x < size) (hy : y < size) (hd : size ≤ Config.gridDim)
include hx hy hd

theorem baseGrid_p_of_finder {fx fy : Nat} (hf : (fx, fy) ∈ finderCorners size)
    (h1 : fx ≤ x + 1 ∧ x + 1 < fx + 9) (h2 : fy ≤ y + 1 ∧ y + 1 < fy + 9) :
    (baseGrid size).p.get x y = true :=
  stamp_p_mono _ (stamp_p_mono _ ((stamp_p ..).2 (.inr ⟨by omega, by omega, exists_finderCell hf hx hy h1 h2⟩)))

/-- The three finder regions are protected (43_grid.md R431). -/
theorem baseGrid_p_of_region (h : (x < 8 ∧ y < 8) ∨ (size - 8 ≤ x ∧ y < 8) ∨ (x < 8 ∧ size - 8 ≤ y)) :
    (baseGrid size).p.get x y = true := by
  rcases h with h | h | h
  · exact baseGrid_p_of_finder hx hy hd (fx := 0) (fy := 0) (by simp [finderCorners]) (by omega) (by omega)
  · exact baseGrid_p_of_finder hx hy hd (fx := size - 7) (fy := 0) (by simp [finderCorners]) (by omega) (by omega)
  · exact baseGrid_p_of_finder hx hy hd (fx := 0) (fy := size - 7) (by simp [finderCorners]) (by omega) (by omega)

/-- Row 6 and column 6 are protected: timing cells between the finder regions (43_grid.md R432). -/
theorem baseGrid_p_of_timing (h : x = 6 ∨ y = 6) : (baseGrid size).p.get x y = true := by
  by_cases hr : (x < 8 ∧ y < 8) ∨ (size - 8 ≤ x ∧ y < 8) ∨ (x < 8 ∧ size - 8 ≤ y)
  · exact baseGrid_p_of_region hx hy hd hr
  · refine stamp_p_mono _ ((stamp_p ..).2 (.inr ⟨by omega, by omega, ?_⟩))
    rcases h with rfl | rfl
    · exact ⟨_, mem_timingCells.2 ⟨y, by omega, by omega, .inr rfl⟩, rfl, rfl⟩
    · exact ⟨_, mem_timingCells.2 ⟨x, by omega, by omega, .inl rfl⟩, rfl, rfl⟩

/-- The dark module is protected (43_grid.md R433). -/
theorem baseGrid_p_of_dark (h : x = 8 ∧ y = size - 8) : (baseGrid size).p.get x y = true :=
  (stamp_p ..).2 (.inr ⟨by omega, by omega, _, List.mem_singleton_self _, h.1.symm, h.2.symm⟩)

end

/-- The reserved format strips (43_grid.md R437). -/
theorem mem_formatReserve_of_strip {size x y : Nat}
    (h : (y = 8 ∧ (x ≤ 8 ∨ (size - 8 ≤ x ∧ x < size))) ∨ (x = 8 ∧ (y ≤ 8 ∨ (size - 7 ≤ y ∧ y < size)))) :
    (x, y) ∈ formatReserve size := by
  rw [mem_formatReserve]
  rcases h with ⟨rfl, h | h⟩ | ⟨rfl, h | h⟩
  · exact .inl ⟨x, by omega, .inl rfl⟩
  · exact .inr (.inl ⟨size - 1 - x, by omega, Prod.ext (by simp only; omega) rfl⟩)
  · exact .inl ⟨y, by omega, .inr rfl⟩
  · exact .inr (.inr ⟨size - 1 - y, by omega, Prod.ext rfl (by simp only; omega)⟩)

/-- The reserved version blocks (43_grid.md R438). -/
theorem mem_versionReserve_of_block {size x y : Nat} (hs : 11 ≤ size)
    (h : (size - 11 ≤ x ∧ x ≤ size - 9 ∧ y ≤ 5) ∨ (size - 11 ≤ y ∧ y ≤ size - 9 ∧ x ≤ 5)) :
    (x, y) ∈ versionReserve size := by
  rw [mem_versionReserve]
  rcases h with h | h
  · exact ⟨3 * y + (x - (size - 11)), by omega, .inl (Prod.ext (by simp only; omega) (by simp only; omega))⟩
  · exact ⟨3 * x + (y - (size - 11)), by omega, .inr (Prod.ext (by simp only; omega) (by simp only; omega))⟩

section
variable {v : Nat} (alnMode : Bool) (coords : List Nat) {x y : Nat}

theorem freshGrid_p_of_base (h : (baseGrid (sizeOfVersion v)).p.get x y = true) :
    (freshGrid v alnMode coords).p.get x y = true := by
  have ha := reserve_p_mono (formatReserve (sizeOfVersion v)) (alignedGrid_p_mono v alnMode coords h)
  rw [freshGrid_eq]
  split
  · exact reserve_p_mono _ ha
  · exact ha

theorem freshGrid_p_of_format (hx : x < Config.gridDim) (hy : y < Config.gridDim)
    (h : (x, y) ∈ formatReserve (sizeOfVersion v)) : (freshGrid v alnMode coords).p.get x y = true := by
  have hf := (reserve_p (alignedGrid v alnMode coords) _ x y).2 (.inr ⟨hx, hy, h⟩)
  rw [freshGrid_eq]
  split
  · exact reserve_p_mono _ hf
  · exact hf

theorem freshGrid_p_of_version (hx : x < Config.gridDim) (hy : y < Config.gridDim) (hv : 7 ≤ v)
    (h : (x, y) ∈ versionReserve (sizeOfVersion v)) : (freshGrid v alnMode coords).p.get x y = true := by
  rw [freshGrid_eq, if_pos hv]
  exact (reserve_p ..).2 (.inr ⟨hx, hy, h⟩)

/-- GRID_INIT protects every function pattern (43_grid.md R431 to R433, R437, R438). -/
theorem freshGrid_p_of_functionCell (h1 : 1 ≤ v) (h40 : v ≤ 40) (h : functionCell v (sizeOfVersion v) x y) :
    (freshGrid v alnMode coords).p.get x y = true := by
  obtain ⟨size, hsize⟩ : ∃ size, sizeOfVersion v = size := ⟨_, rfl⟩
  have hdim : Config.gridDim = 177 := rfl
  have hs : 21 ≤ size ∧ size ≤ Config.gridDim := by unfold sizeOfVersion at hsize; omega
  have hbase : (baseGrid size).p.get x y = true → (freshGrid v alnMode coords).p.get x y = true :=
    fun hb => freshGrid_p_of_base alnMode coords (hsize ▸ hb)
  have hformat : (x, y) ∈ formatReserve size → x < size ∧ y < size → (freshGrid v alnMode coords).p.get x y = true :=
    fun hm hxy => freshGrid_p_of_format alnMode coords (by omega) (by omega) (hsize ▸ hm)
  have hversion : 7 ≤ v → (x, y) ∈ versionReserve size → x < size ∧ y < size →
      (freshGrid v alnMode coords).p.get x y = true :=
    fun hv hm hxy => freshGrid_p_of_version alnMode coords (by omega) (by omega) hv (hsize ▸ hm)
  rw [hsize] at h
  rcases h with h | h | h | h | h | h | h | h | ⟨hv, h⟩ | ⟨hv, h⟩
  · exact hbase (baseGrid_p_of_region (by omega) (by omega) hs.2 (by omega))
  · exact hbase (baseGrid_p_of_region (by omega) (by omega) hs.2 (by omega))
  · exact hbase (baseGrid_p_of_region (by omega) (by omega) hs.2 (by omega))
  · exact hbase (baseGrid_p_of_timing (by omega) (by omega) hs.2 (by omega))
  · exact hbase (baseGrid_p_of_timing (by omega) (by omega) hs.2 (by omega))
  · exact hbase (baseGrid_p_of_dark (by omega) (by omega) hs.2 h)
  · exact hformat (mem_formatReserve_of_strip (.inl h)) (by omega)
  · exact hformat (mem_formatReserve_of_strip (.inr h)) (by omega)
  · exact hversion hv (mem_versionReserve_of_block (by omega) (.inl h)) (by omega)
  · exact hversion hv (mem_versionReserve_of_block (by omega) (.inr h)) (by omega)

end

end Sys2Proof.Machine
end

section
/-! PROOF. How many codewords ILV writes, and that the codeword commands store inside their buffers. -/

namespace Sys2Proof.Machine

/-! ### The interleaved sequence (42_interleave.md R400) -/

/-- No block has more data codewords than KMAX. -/
theorem blockLen_le_maxBlockLen {c : CfgRegs} {b : Nat} (h : b < totalBlocks c) : blockLen c b ≤ maxBlockLen c := by
  have hm : blockLen c b ∈ (List.range (totalBlocks c)).map (blockLen c) :=
    List.mem_map_of_mem (List.mem_range.2 h)
  have hne := List.ne_nil_of_mem hm
  rw [maxBlockLen, List.foldl_max_eq_max hne]
  exact Nat.le_trans (List.le_max_of_mem hm) (Nat.le_max_right ..)

/-- The rounds below K in which a block of n codewords takes part. -/
theorem sum_rounds_of_block (n K : Nat) : ((List.range K).map fun i => if i < n then 1 else 0).sum = min K n := by
  induction K with
  | zero => simp
  | succ K ih => rw [List.sum_range_succ, ih]; split <;> omega

/-- Counting codewords by rounds or by blocks is the same. -/
theorem sum_rounds_eq_sum_blocks (len : Nat → Nat) (K : Nat) (bs : List Nat) (h : ∀ b ∈ bs, len b ≤ K) :
    ((List.range K).map fun i => (bs.filter fun b => decide (i < len b)).length).sum = (bs.map len).sum := by
  induction bs with
  | nil => simp
  | cons b bs ih =>
    have split_head : ∀ i, ((b :: bs).filter fun b => decide (i < len b)).length =
        (if i < len b then 1 else 0) + (bs.filter fun b => decide (i < len b)).length := by
      intro i
      rw [List.filter_cons]
      by_cases hi : i < len b <;> simp [hi, Nat.add_comm]
    simp only [split_head, List.sum_map_add, List.map_cons, List.sum_cons]
    rw [sum_rounds_of_block, Nat.min_eq_right (h b List.mem_cons_self),
      ih fun b' hb' => h b' (List.mem_cons_of_mem _ hb')]

/-- The sequence holds TD data and TE ECC codewords (42_interleave.md R400). -/
@[simp] theorem length_interleaved (s : State) :
    (interleaved s).length = totalData s.cfg + totalEcc s.cfg := by
  have hdata : ((List.range (maxBlockLen s.cfg)).flatMap (dataRound s)).length = totalData s.cfg := by
    rw [← dataOffset_totalBlocks, dataOffset, List.length_flatMap,
      ← sum_rounds_eq_sum_blocks (blockLen s.cfg) (maxBlockLen s.cfg) _
        fun b hb => blockLen_le_maxBlockLen (List.mem_range.1 hb)]
    simp [dataRound]
  have hecc : ((List.range s.cfg.necc.toNat).flatMap (eccRound s)).length = totalEcc s.cfg := by
    simp [List.length_flatMap, eccRound, totalEcc, Nat.mul_comm]
  rw [interleaved, List.length_append, hdata, hecc]

/-! ### The codeword commands store inside their buffers (20_memory.md R155) -/

/-- With a legal profile the ECC codewords of every block fit EBUF (41_rs.md R351). -/
theorem eccOffset_add_le {c : CfgRegs} (h : profileOk c) {b : Nat} (hb : b < totalBlocks c) :
    eccOffset c b + ((genPoly c.necc.toNat).length - 1) ≤ Config.bufSize := by
  obtain ⟨-, -, -, hn, -, hfit⟩ := h
  have hle : (b + 1) * c.necc.toNat ≤ totalEcc c := Nat.mul_le_mul_right _ hb
  rw [Nat.succ_mul] at hle
  rw [length_genPoly hn, eccOffset]
  omega

end Sys2Proof.Machine
end

section
/-! PROOF. What every command and every host access keeps: the invariant of Safety.lean. -/

namespace Sys2Proof.Machine

/-! ### Writes of plane V inside the symbol -/

/-- Planes `v` and `w` agree outside the symbol. -/
def SameOutside (size : Nat) (v w : Plane) : Prop := ∀ x y, size ≤ x ∨ size ≤ y → w.get x y = v.get x y

theorem sameOutside_set {size x y : Nat} (hx : x < size) (hy : y < size) (v : Plane) (b : Bool) :
    SameOutside size v (v.set x y b) := fun i j h => by
  rw [get_set, if_neg (by omega)]

theorem sameOutside_gridWrite {size x y : Nat} (hx : x < size) (hy : y < size) (v p : Plane) (d f : Bool) :
    SameOutside size v (gridWrite v p x y d f).2 := by
  rcases gridWrite_cases v p x y d f with ⟨-, -, e⟩ | ⟨-, e⟩ <;> rw [e]
  · exact fun _ _ _ => rfl
  · exact sameOutside_set hx hy v d

theorem sameOutside_setAll {size : Nat} {cells : List (Nat × Nat × Bool)}
    (hc : ∀ c ∈ cells, c.1 < size ∧ c.2.1 < size) (v : Plane) : SameOutside size v (v.setAll cells) := fun x y h =>
  get_setAll_of_not_mem _ _ fun c hm hxy => by have := hc c hm; omega

theorem sameOutside_placeBits (size : Nat) (v p : Plane) (bits : Nat → Bool) :
    SameOutside size v (placeBits v p bits (zigzag size)) := fun x y h =>
  get_placeFold_of_not p bits _ v 0 (.inr fun hm => by have := zigzag_inside size _ hm; omega)

theorem sameOutside_masked (size m : Nat) (v p : Plane) : SameOutside size v (masked size m v p) := fun x y h => by
  rw [get_masked, if_neg (by omega)]
  by_cases hd : x < Config.gridDim ∧ y < Config.gridDim
  · simp [hd]
  · rw [get_outside v (by omega), Bool.and_false]

theorem sameOutside_candidate {s : State} (h : 21 ≤ gridSize s) (m : Nat) :
    SameOutside (gridSize s) s.v (candidate s m) := fun x y hxy => by
  rw [candidate, sameOutside_setAll (formatWrites_inside h _) _ x y hxy]
  exact sameOutside_masked _ m s.v s.p x y hxy

/-! ### The part of the invariant that commands must keep -/

/-- The invariant but for the engine and the report of the last command: a mask only on a grid, the generator, the
grid and the buffers. -/
def State.DataInv (s : State) : Prop :=
  (s.status.masked = true → s.status.gv = true) ∧ s.GenInv ∧ s.GridInv ∧ s.MemInv

theorem dataInv_of_inv {s : State} (h : s.Inv) : s.DataInv := by
  obtain ⟨⟨-, -, -, -, hmask⟩, hrest⟩ := h
  exact ⟨hmask, hrest⟩

/-- Completion reports consistently and leaves the engine idle (60_exceptions.md R711). -/
theorem inv_complete {s : State} (h : s.DataInv) (e : Option ErrorCode) : (complete e s).Inv := by
  obtain ⟨hmask, hrest⟩ := h
  cases e with
  | none => exact ⟨⟨by simp, by simp, fun _ => rfl, nofun, hmask⟩, hrest⟩
  | some e => exact ⟨⟨⟨fun _ => code_ne_zero e, fun _ => rfl⟩, code_le_ten e, fun _ => rfl, nofun, hmask⟩, hrest⟩

/-- A grid that meets the invariant has at least the size of version 1. -/
theorem gridSize_ge {s : State} (h : s.GridInv) (hg : s.status.gv = true) : 21 ≤ gridSize s := by
  obtain ⟨h1, -, hsize, -⟩ := h.2 hg
  omega

theorem dataInv_setGenerator {s : State} (h : s.DataInv) {n : Nat} (h1 : 1 ≤ n) (h30 : n ≤ Config.nEccMax) :
    (setGenerator n s).DataInv := by
  obtain ⟨hmask, -, hrest⟩ := h
  change n ≤ 30 at h30
  have hn : (BitVec.ofNat 8 n).toNat = n := by rw [BitVec.toNat_ofNat]; omega
  refine ⟨hmask, .inr ?_, hrest⟩
  rw [setGenerator_genDeg, setGenerator_gen, hn]
  exact ⟨h1, h30, rfl⟩

theorem dataInv_withMem {s : State} (h : s.DataInv) {m : Memory} (hm : m.wf = true) :
    State.DataInv { s with mem := m } := by
  obtain ⟨hmask, hgen, hgrid, -⟩ := h
  exact ⟨hmask, hgen, hgrid, hm⟩

/-- Writing plane V inside the symbol keeps the grid's invariant. -/
theorem dataInv_withV {s : State} (h : s.DataInv) {w : Plane}
    (hw : s.status.gv = true → SameOutside (gridSize s) s.v w) : State.DataInv { s with v := w } := by
  obtain ⟨hmask, hgen, ⟨hnone, hgrid⟩, hmem⟩ := h
  refine ⟨hmask, hgen, ⟨hnone, fun hg => ?_⟩, hmem⟩
  obtain ⟨h1, h40, hsize, hout, hfun⟩ := hgrid hg
  refine ⟨h1, h40, hsize, fun x y hxy => ?_, hfun⟩
  obtain ⟨hv, hp⟩ := hout x y hxy
  exact ⟨(hw hg x y hxy).trans hv, hp⟩

theorem dataInv_protect {s : State} (h : s.DataInv) {x y : Nat} (hx : x < gridSize s) (hy : y < gridSize s) :
    State.DataInv { s with p := s.p.set x y true } := by
  obtain ⟨hmask, hgen, ⟨hnone, hgrid⟩, hmem⟩ := h
  refine ⟨hmask, hgen, ⟨hnone, fun hg => ?_⟩, hmem⟩
  obtain ⟨h1, h40, hsize, hout, hfun⟩ := hgrid hg
  refine ⟨h1, h40, hsize, fun i j hij => ?_, fun i j hij => ?_⟩
  · obtain ⟨hv, hp⟩ := hout i j hij
    exact ⟨hv, (sameOutside_set hx hy s.p true i j hij).trans hp⟩
  · show (s.p.set x y true).get i j = true
    rw [get_set, hfun i j hij, ite_self]

theorem dataInv_applyMask {s : State} (h : s.DataInv) (hg : s.status.gv = true) (m : Nat) :
    (applyMask m s).DataInv := by
  obtain ⟨-, hgen, hgrid, hmem⟩ :=
    dataInv_withV h fun _ => sameOutside_candidate (gridSize_ge h.2.2.1 hg) m
  rw [applyMask]
  exact ⟨fun _ => hg, hgen, hgrid, hmem⟩

theorem dataInv_gridInit {s t : State} (h : s.DataInv) (ht : effGridInit s = .ok t) : t.DataInv := by
  obtain ⟨-, hgen, -, hmem⟩ := h
  obtain ⟨h1, h40, hcoords, rfl⟩ := effGridInit_ok ht
  have hver : (BitVec.ofNat 6 s.cfg.version.toNat).toNat = s.cfg.version.toNat := by rw [BitVec.toNat_ofNat]; omega
  have hsize : (BitVec.ofNat 8 (sizeOfVersion s.cfg.version.toNat)).toNat = sizeOfVersion s.cfg.version.toNat := by
    rw [BitVec.toNat_ofNat, sizeOfVersion]; omega
  refine ⟨fun _ => rfl, hgen, ⟨nofun, fun _ => ?_⟩, hmem⟩
  simp only [gridSize, hver, hsize]
  exact ⟨h1, h40, rfl, freshGrid_inside hcoords, fun x y => freshGrid_p_of_functionCell _ _ h1 h40⟩

/-- Every command that raises no error keeps it. -/
theorem dataInv_effectOf {i : Instr} {s t : State} (h : s.DataInv) (ht : effectOf i s = .ok t) : t.DataInv := by
  have ⟨_, _, hgrid, hmem⟩ := h
  cases i with
  | nop | gfMul | gfExp | run => cases ht; exact h
  | gfDiv a b => obtain ⟨-, rfl⟩ := effGfDiv_ok ht; exact h
  | gfLog a => obtain ⟨-, rfl⟩ := effGfLog_ok ht; exact h
  | rsGen n => obtain ⟨h1, h30, rfl⟩ := effRsGen_ok ht; exact dataInv_setGenerator h h1 h30
  | rsEnc k =>
    obtain ⟨-, -, hfit, rfl⟩ := effRsEnc_ok ht
    exact dataInv_withMem h (wf_writeBuf hmem .ebuf (by simpa using hfit))
  | rsAll =>
    obtain ⟨hprofile, rfl⟩ := effRsAll_ok ht
    have ⟨_, _, _, h1, h30, _⟩ := hprofile
    exact dataInv_setGenerator (dataInv_withMem h
      (wf_encodeFold s _ _ hmem fun b hb => eccOffset_add_le hprofile (List.mem_range.1 hb))) h1 h30
  | ilv =>
    obtain ⟨⟨-, -, -, -, -, hfit⟩, rfl⟩ := effIlv_ok ht
    exact dataInv_withMem h (wf_writeBuf hmem .ibuf (by simpa using hfit))
  | gridInit => exact dataInv_gridInit h ht
  | gridWr x y d f =>
    obtain ⟨-, hx, hy, rfl⟩ := effGridWr_ok ht
    exact dataInv_withV h fun _ => sameOutside_gridWrite hx hy _ _ _ _
  | gridRd x y => obtain ⟨-, -, -, rfl⟩ := effGridRd_ok ht; exact h
  | gridRsv x y => obtain ⟨-, hx, hy, rfl⟩ := effGridRsv_ok ht; exact dataInv_protect h hx hy
  | place =>
    obtain ⟨-, -, -, -, rfl⟩ := effPlace_ok ht
    exact dataInv_withV h fun _ => sameOutside_placeBits _ _ _ _
  | maskScore m => obtain ⟨-, -, -, rfl⟩ := effMaskScore_ok ht; exact h
  | maskApply m => obtain ⟨-, hg, -, rfl⟩ := effMaskApply_ok ht; exact dataInv_applyMask h hg m
  | maskAuto => obtain ⟨hg, -, rfl⟩ := effMaskAuto_ok ht; exact dataInv_applyMask h hg _
  | fmtEnc m => obtain ⟨-, rfl⟩ := effFmtEnc_ok ht; exact h
  | fmtWr =>
    obtain ⟨-, rfl⟩ := effFmtWr_ok ht
    exact dataInv_withV h fun hg => sameOutside_setAll (formatWrites_inside (gridSize_ge hgrid hg) _) _
  | vinfoWr =>
    obtain ⟨-, h7, rfl⟩ := effVinfoWr_ok ht
    refine dataInv_withV h fun hg => sameOutside_setAll (versionWrites_inside ?_ _) _
    obtain ⟨-, -, hsize, -⟩ := hgrid.2 hg
    omega

/-! ### From effects to commands -/

/-- A stage of RUN has the effect of a command (47_control.md R651). -/
theorem exists_effectOf_of_stage {stage : State → Except ErrorCode State} (h : stage ∈ runStages) (s : State) :
    ∃ i, stage s = effectOf i s := by
  simp only [runStages, List.mem_cons, List.not_mem_nil, or_false] at h
  rcases h with rfl | rfl | rfl | rfl | rfl | rfl
  · exact ⟨.rsAll, rfl⟩
  · exact ⟨.ilv, rfl⟩
  · exact ⟨.gridInit, rfl⟩
  · exact ⟨.place, rfl⟩
  · unfold stageVersionInfo
    split
    · exact ⟨.vinfoWr, rfl⟩
    · exact ⟨.nop, rfl⟩
  · exact ⟨.maskAuto, rfl⟩

/-- What every stage keeps holds of the state RUN's completed stages leave. -/
theorem runFrom_keeps {P : State → Prop} {stages : List (State → Except ErrorCode State)}
    (hstage : ∀ stage ∈ stages, ∀ s t, P s → stage s = .ok t → P t) {s : State} (hs : P s) (n : Nat) :
    P (runFrom stages s n).1 := by
  induction stages generalizing s n with
  | nil => exact hs
  | cons stage rest ih =>
    rcases runFrom_cons stage rest s n with ⟨t, ht, e⟩ | ⟨_, -, e⟩ <;> rw [e]
    · exact ih (fun f hf => hstage f (List.mem_cons_of_mem _ hf)) (hstage stage List.mem_cons_self s t hs ht) _
    · exact hs

/-- A command completes a state for which everything holds that each effect and a write to RESULT keep. -/
theorem exec_keeps {P : State → Prop} (heffect : ∀ i s t, P s → effectOf i s = .ok t → P t)
    (hresult : ∀ s r, P s → P { s with result := r }) {i : Instr} {s u : State} (hs : P s) (hu : exec i s = .next u) :
    ∃ t e, P t ∧ u = complete e t := by
  by_cases hi : i = .run
  · subst hi
    have hrun := runFrom_keeps (P := P) (stages := runStages) (s := s)
      (fun stage hf s t hs ht => by
        obtain ⟨i, hi⟩ := exists_effectOf_of_stage hf s
        exact heffect i s t hs (hi ▸ ht)) hs 0
    cases hu
    exact ⟨_, _, hresult _ _ hrun, rfl⟩
  · rcases exec_cases hi hu with ⟨t, ht, rfl⟩ | ⟨e, -, rfl⟩
    · exact ⟨t, none, heffect i s t hs ht, rfl⟩
    · exact ⟨s, some e, hs, rfl⟩

/-- A command keeps the invariant. -/
theorem inv_exec {i : Instr} {s u : State} (h : s.Inv) (hu : exec i s = .next u) : u.Inv := by
  obtain ⟨t, e, ht, rfl⟩ := exec_keeps (P := State.DataInv) (fun _ _ _ => dataInv_effectOf) (fun _ _ h => h)
    (dataInv_of_inv h) hu
  exact inv_complete ht e

theorem inv_engineTurn {s t : State} (h : s.Inv) (ht : engineTurn s = .next t) : t.Inv := by
  rcases engineTurn_cases s with ⟨-, e⟩ | ⟨c, -, -, ⟨i, -, e⟩ | ⟨r, -, e⟩⟩ <;> rw [e] at ht
  · cases ht; exact h
  · exact inv_exec h ht
  · cases ht; exact inv_complete (dataInv_of_inv h) _

/-! ### Host accesses and the reset pin -/

/-- A buffer word lies inside the three windows (20_memory.md R152). -/
theorem bounds_of_regionOf_buffer {a : HAddr} {n : Nat} (h : regionOf a = .buffer n) : 0x1000 ≤ n ∧ n + 4 ≤ 0x4000 := by
  unfold regionOf at h
  simp only at h
  split_ifs at h
  · cases hr : regAt a.toNat <;> rw [hr] at h <;> cases h
  · injection h with h; omega

/-- Clearing flags keeps the report consistent (10_state.md R54). -/
theorem inv_clearStatus {s : State} (h : s.Inv) (d : Word) : State.Inv { s with status := s.status.clear d } := by
  obtain ⟨⟨hcode, hle, hdone, hbusy, hmask⟩, hrest⟩ := h
  rw [clear_eq]
  refine ⟨⟨?_, ?_, ?_, ?_, hmask⟩, hrest⟩
  · cases d.getLsbD 1 with
    | false => simpa using hcode
    | true => simp
  · cases d.getLsbD 1 with
    | false => exact hle
    | true => simp
  · cases d.getLsbD 1 with
    | false => simpa using hdone
    | true => simp
  · intro c hc
    obtain ⟨hcmd, hd, hrst⟩ := hbusy c hc
    exact ⟨hcmd, by simp [hd], hrst⟩

/-- Accepting a command starts it with a clear report (60_exceptions.md R710). -/
theorem inv_accept {s : State} (h : s.Inv) (hr : s.rst = false) (c : Word) : (accept c s).Inv := by
  obtain ⟨⟨-, -, -, -, hmask⟩, hrest⟩ := h
  refine ⟨⟨by simp, by simp, nofun, fun c' hc => ?_, hmask⟩, hrest⟩
  cases hc
  exact ⟨rfl, rfl, hr⟩

theorem inv_writeReg {s : State} (h : s.Inv) (hr : s.rst = false) (r : Reg) (d : Word) : (writeReg s r d).Inv := by
  cases r with
  | status => exact inv_clearStatus h d
  | cmd => exact inv_accept h hr d
  | _ => exact h

theorem inv_writeRegion {s : State} (h : s.Inv) (hr : s.rst = false) (a : HAddr) (d : Word) :
    (writeRegion s (regionOf a) d).Inv := by
  cases hg : regionOf a with
  | reg r => exact inv_writeReg h hr r d
  | buffer n =>
    obtain ⟨lo, hi⟩ := bounds_of_regionOf_buffer hg
    obtain ⟨hstatus, hgen, hgrid, hmem⟩ := h
    exact ⟨hstatus, hgen, hgrid, wf_writeBytes hmem lo _ hi⟩
  | _ => exact h

theorem inv_hostWrite {s : State} (h : s.Inv) (hr : s.rst = false) (a : HAddr) (d : Word) : (hostWrite a d s).Inv := by
  cases hresp : (regionOf a).resp with
  | err => rw [hostWrite_unmapped d hresp]; exact h
  | ok =>
    by_cases hp : s.engine.isBusy = false ∨ regionOf a = .reg .status
    · rw [hostWrite_performed d hresp hp]; exact inv_writeRegion h hr a d
    · rw [not_or, Bool.not_eq_false] at hp
      rw [hostWrite_dropped d hresp hp.1 hp.2]; exact h

theorem inv_hostRead {s : State} (h : s.Inv) (a : HAddr) : (hostRead a s).Inv := by
  unfold hostRead
  dsimp only
  split <;> exact h

/-- Every reset state meets the invariant (70_reset_and_hazards.md R760). -/
theorem inv_afterReset (epoch : Nat) : (State.afterReset epoch).Inv :=
  ⟨⟨by simp [State.afterReset], by simp [State.afterReset], nofun, nofun, nofun⟩, .inl ⟨rfl, rfl⟩,
    ⟨fun _ => rfl, nofun⟩, wf_nil⟩

/-- Asserting the reset pin brings the reset state, releasing it changes only the pin (70_reset_and_hazards.md R760). -/
theorem inv_driveRst {s : State} (h : s.Inv) (level : Bool) : (driveRst level s).Inv := by
  cases level with
  | true =>
    obtain ⟨⟨hcode, hle, hdone, -, hmask⟩, hrest⟩ := inv_afterReset (s.epoch + 1)
    exact ⟨⟨hcode, hle, hdone, nofun, hmask⟩, hrest⟩
  | false =>
    obtain ⟨⟨hcode, hle, hdone, hbusy, hmask⟩, hrest⟩ := h
    refine ⟨⟨hcode, hle, hdone, fun c hc => ?_, hmask⟩, hrest⟩
    obtain ⟨hcmd, hd, -⟩ := hbusy c hc
    exact ⟨hcmd, hd, rfl⟩

theorem inv_portRead {s : State} (h : s.Inv) (a : HAddr) : (portRead a s).Inv := by
  unfold portRead
  split
  · exact h
  · exact inv_hostRead h a

theorem inv_portWrite {s : State} (h : s.Inv) (a : HAddr) (d : Word) : (portWrite a d s).Inv := by
  unfold portWrite
  split
  · exact h
  · next hr => exact inv_hostWrite h (Bool.eq_false_iff.2 hr) a d

/-- Every step keeps the invariant. -/
theorem inv_step {s t : State} (h : s.Inv) (ht : step s = .next t) : t.Inv := by
  have htake : (takeInput s).Inv := h
  unfold step at ht
  split at ht
  · exact inv_engineTurn htake ht
  · cases ht; exact inv_portRead htake _
  · cases ht; exact inv_portWrite htake _ _
  · cases ht; exact inv_driveRst htake _

end Sys2Proof.Machine

namespace Sys2Proof.Proofs

open Sys2Proof.Machine

/-- Settles O11: the engine's turn keeps what completion needs, and each host event keeps the whole invariant. -/
theorem stepKeepsInvariant : Obligations.StepKeepsInvariant := fun _ _ h ht => inv_step h ht

end Sys2Proof.Proofs
end

section
/-! PROOF. What commands leave unchanged: the host's state, and plane P (10_state.md R82, R87). -/

namespace Sys2Proof.Machine

/-! ### The host's state -/

/-- `t` has the configuration, the DBUF bytes, the schedule, the reset pin and the model's counters of `s`. -/
def SameHostState (s t : State) : Prop :=
  t.cfg = s.cfg ∧ (∀ j, j < 4096 → bufByte t .dbuf j = bufByte s .dbuf j) ∧
    t.inputs = s.inputs ∧ t.answer = s.answer ∧ t.rst = s.rst ∧ t.epoch = s.epoch ∧ t.draws = s.draws

theorem sameHostState_refl (s : State) : SameHostState s s := ⟨rfl, fun _ _ => rfl, rfl, rfl, rfl, rfl, rfl⟩

theorem sameHostState_trans {s t u : State} (h : SameHostState s t) (h' : SameHostState t u) : SameHostState s u := by
  obtain ⟨hcfg, hmem, hinputs, hanswer, hrst, hepoch, hdraws⟩ := h
  obtain ⟨hcfg', hmem', hinputs', hanswer', hrst', hepoch', hdraws'⟩ := h'
  exact ⟨hcfg'.trans hcfg, fun j hj => (hmem' j hj).trans (hmem j hj), hinputs'.trans hinputs,
    hanswer'.trans hanswer, hrst'.trans hrst, hepoch'.trans hepoch, hdraws'.trans hdraws⟩

/-- Stores above DBUF leave the host's state. -/
theorem sameHostState_withMem {s : State} {m : Memory} (hm : ∀ a, a < 0x2000 → m.lookup a = s.mem.lookup a) :
    SameHostState s { s with mem := m } :=
  ⟨rfl, fun j hj => byteAt_congr (hm _ (by rw [Buffer.base]; omega)) rfl, rfl, rfl, rfl, rfl, rfl⟩

theorem sameHostState_setGenerator (n : Nat) (s : State) : SameHostState s (setGenerator n s) := sameHostState_refl s

theorem sameHostState_effectOf {i : Instr} {s t : State} (ht : effectOf i s = .ok t) : SameHostState s t := by
  have hsame := sameHostState_refl s
  cases i with
  | nop | gfMul | gfExp | run => cases ht; exact hsame
  | gfDiv a b => obtain ⟨-, rfl⟩ := effGfDiv_ok ht; exact hsame
  | gfLog a => obtain ⟨-, rfl⟩ := effGfLog_ok ht; exact hsame
  | rsGen n => obtain ⟨-, -, rfl⟩ := effRsGen_ok ht; exact hsame
  | rsEnc k =>
    obtain ⟨-, -, -, rfl⟩ := effRsEnc_ok ht
    exact sameHostState_withMem fun a ha => lookup_writeBuf_outside _ _ _ _ (.inl (by rw [Buffer.base]; omega))
  | rsAll =>
    obtain ⟨-, rfl⟩ := effRsAll_ok ht
    refine sameHostState_trans (sameHostState_withMem fun a ha => ?_) (sameHostState_setGenerator _ _)
    exact lookup_encodeFold _ _ _ _ _ fun b _ => .inl (by omega)
  | ilv =>
    obtain ⟨-, rfl⟩ := effIlv_ok ht
    exact sameHostState_withMem fun a ha => lookup_writeBuf_outside _ _ _ _ (.inl (by rw [Buffer.base]; omega))
  | gridInit => obtain ⟨-, -, -, rfl⟩ := effGridInit_ok ht; exact hsame
  | gridWr x y d f => obtain ⟨-, -, -, rfl⟩ := effGridWr_ok ht; exact hsame
  | gridRd x y => obtain ⟨-, -, -, rfl⟩ := effGridRd_ok ht; exact hsame
  | gridRsv x y => obtain ⟨-, -, -, rfl⟩ := effGridRsv_ok ht; exact hsame
  | place => obtain ⟨-, -, -, -, rfl⟩ := effPlace_ok ht; exact hsame
  | maskScore m => obtain ⟨-, -, -, rfl⟩ := effMaskScore_ok ht; exact hsame
  | maskApply m => obtain ⟨-, -, -, rfl⟩ := effMaskApply_ok ht; exact hsame
  | maskAuto => obtain ⟨-, -, rfl⟩ := effMaskAuto_ok ht; exact hsame
  | fmtEnc m => obtain ⟨-, rfl⟩ := effFmtEnc_ok ht; exact hsame
  | fmtWr => obtain ⟨-, rfl⟩ := effFmtWr_ok ht; exact hsame
  | vinfoWr => obtain ⟨-, -, rfl⟩ := effVinfoWr_ok ht; exact hsame

/-- No command changes the host's state. -/
theorem sameHostState_exec {i : Instr} {s u : State} (hu : exec i s = .next u) : SameHostState s u := by
  obtain ⟨t, e, ht, rfl⟩ := exec_keeps (P := SameHostState s)
    (fun _ _ _ h he => sameHostState_trans h (sameHostState_effectOf he)) (fun _ _ h => h) (sameHostState_refl s) hu
  exact ht

/-! ### Plane P -/

/-- Only GRID_INIT and GRID_RSV change plane P, GRID_RSV its one cell (10_state.md R87). -/
theorem effectOf_p {i : Instr} {s t : State} (hi : i ≠ .gridInit) (ht : effectOf i s = .ok t) :
    (∃ x y, i = .gridRsv x y ∧ t.p = s.p.set x y true) ∨ ((∀ x y, i ≠ .gridRsv x y) ∧ t.p = s.p) := by
  cases i with
  | nop | gfMul | gfExp | run => cases ht; exact .inr ⟨nofun, rfl⟩
  | gfDiv a b => obtain ⟨-, rfl⟩ := effGfDiv_ok ht; exact .inr ⟨nofun, rfl⟩
  | gfLog a => obtain ⟨-, rfl⟩ := effGfLog_ok ht; exact .inr ⟨nofun, rfl⟩
  | rsGen n => obtain ⟨-, -, rfl⟩ := effRsGen_ok ht; exact .inr ⟨nofun, rfl⟩
  | rsEnc k => obtain ⟨-, -, -, rfl⟩ := effRsEnc_ok ht; exact .inr ⟨nofun, rfl⟩
  | rsAll => obtain ⟨-, rfl⟩ := effRsAll_ok ht; exact .inr ⟨nofun, rfl⟩
  | ilv => obtain ⟨-, rfl⟩ := effIlv_ok ht; exact .inr ⟨nofun, rfl⟩
  | gridInit => exact absurd rfl hi
  | gridWr x y d f => obtain ⟨-, -, -, rfl⟩ := effGridWr_ok ht; exact .inr ⟨nofun, rfl⟩
  | gridRd x y => obtain ⟨-, -, -, rfl⟩ := effGridRd_ok ht; exact .inr ⟨nofun, rfl⟩
  | gridRsv x y => obtain ⟨-, -, -, rfl⟩ := effGridRsv_ok ht; exact .inl ⟨x, y, rfl, rfl⟩
  | place => obtain ⟨-, -, -, -, rfl⟩ := effPlace_ok ht; exact .inr ⟨nofun, rfl⟩
  | maskScore m => obtain ⟨-, -, -, rfl⟩ := effMaskScore_ok ht; exact .inr ⟨nofun, rfl⟩
  | maskApply m => obtain ⟨-, -, -, rfl⟩ := effMaskApply_ok ht; exact .inr ⟨nofun, rfl⟩
  | maskAuto => obtain ⟨-, -, rfl⟩ := effMaskAuto_ok ht; exact .inr ⟨nofun, rfl⟩
  | fmtEnc m => obtain ⟨-, rfl⟩ := effFmtEnc_ok ht; exact .inr ⟨nofun, rfl⟩
  | fmtWr => obtain ⟨-, rfl⟩ := effFmtWr_ok ht; exact .inr ⟨nofun, rfl⟩
  | vinfoWr => obtain ⟨-, -, rfl⟩ := effVinfoWr_ok ht; exact .inr ⟨nofun, rfl⟩

end Sys2Proof.Machine

namespace Sys2Proof.Proofs

open Sys2Proof.Machine

/-- Settles O12: each effect leaves the host's state, and so do completion and RUN's chain of effects. -/
theorem commandsLeaveHostState : Obligations.CommandsLeaveHostState := fun _ _ _ hu => sameHostState_exec hu

/-- Settles O13: a command that raised an error only completed; otherwise only GRID_RSV's effect sets a cell of P. -/
theorem protectionOnlyGrows : Obligations.ProtectionOnlyGrows := by
  intro i s u hinit hrun hu x y
  rcases exec_cases hrun hu with ⟨t, ht, rfl⟩ | ⟨e, -, rfl⟩
  · rcases effectOf_p hinit ht with ⟨x', y', rfl, hp⟩ | ⟨hi, hp⟩
    · rw [complete_p, hp, get_set]
      split
      · next hc =>
        obtain ⟨rfl, rfl, hx, hy⟩ := hc
        simp [hx, hy]
      · next hc =>
        refine ⟨.inl, fun h => h.elim id fun ⟨hi, _, hx, hy⟩ => ?_⟩
        cases hi
        exact absurd ⟨rfl, rfl, hx, hy⟩ hc
    · simp [hp, hi x y]
  · simp

end Sys2Proof.Proofs
end

section
/-! PROOF. The largest penalties (10_state.md R79; 45_mask.md R532 to R536). -/

namespace Sys2Proof.Machine

theorem length_of_mem_gridLines {w : Plane} {size : Nat} {line : List Bool} (h : line ∈ gridLines w size) :
    line.length = size := by
  simp only [gridLines, List.mem_append, List.mem_map] at h
  rcases h with ⟨_, -, rfl⟩ | ⟨_, -, rfl⟩
  · simp [rowLine]
  · simp [colLine]

/-- A sum over the 2S lines is at most 2S times a bound on one line. -/
theorem sum_gridLines_le {w : Plane} {size n : Nat} {f : List Bool → Nat}
    (h : ∀ line : List Bool, line.length = size → f line ≤ n) : ((gridLines w size).map f).sum ≤ 2 * size * n := by
  have hlen : ((gridLines w size).map f).length = 2 * size := by simp [gridLines]; omega
  have hsum := List.sum_le_card_nsmul ((gridLines w size).map f) n fun x hx => by
    obtain ⟨line, hline, rfl⟩ := List.mem_map.1 hx
    exact h line (length_of_mem_gridLines hline)
  rwa [hlen, smul_eq_mul] at hsum

/-- The runs of a line cost at most one per cell (45_mask.md R532). -/
theorem sum_runPenalty_le (line : List Bool) : ((runs line).map runPenalty).sum ≤ line.length := by
  rw [← sum_runs line]
  conv_rhs => rw [← List.map_id (runs line)]
  refine List.sum_le_sum fun len _ => ?_
  rw [runPenalty, id]
  split <;> omega

theorem penaltyRuns_le (w : Plane) (size : Nat) : penaltyRuns w size ≤ 2 * size * size :=
  sum_gridLines_le fun line h => h ▸ sum_runPenalty_le line

theorem penaltyBlocks_le (w : Plane) (size : Nat) : penaltyBlocks w size ≤ 3 * ((size - 1) * (size - 1)) := by
  rw [penaltyBlocks, ← length_squareCells]
  exact Nat.mul_le_mul_left 3 List.countP_le_length

theorem patternWindows_le (patMode : Bool) (line : List Bool) : patternWindows patMode line ≤ line.length - 10 := by
  unfold patternWindows
  exact List.countP_le_length.trans_eq List.length_range

theorem penaltyPatterns_le (patMode : Bool) (w : Plane) (size : Nat) :
    penaltyPatterns patMode w size ≤ 40 * (2 * size * (size - 10)) :=
  Nat.mul_le_mul_left 40 (sum_gridLines_le fun line h => h ▸ patternWindows_le patMode line)

theorem darkCount_le (w : Plane) (size : Nat) : darkCount w size ≤ size * size := by
  rw [darkCount, ← length_squareCells]
  exact List.countP_le_length

/-- The dark share is at most half the symbol away from a half (45_mask.md R535). -/
theorem balanceDeviation_le {dark total : Nat} (h : dark ≤ total) : balanceDeviation dark total ≤ 50 := by
  unfold balanceDeviation dist
  exact Nat.div_le_of_le_mul (by omega)

theorem penaltyBalance_le (balMode : Bool) (w : Plane) (size : Nat) : penaltyBalance balMode w size ≤ 500 := by
  have hd := balanceDeviation_le (darkCount_le w size)
  unfold penaltyBalance
  dsimp only
  split <;> omega

end Sys2Proof.Machine

namespace Sys2Proof.Proofs

open Sys2Proof.Machine

/-- Settles O40: each penalty is bounded by the number of cells or windows it counts, and those by 177². -/
theorem penaltiesFitTheirRegisters : Obligations.PenaltiesFitTheirRegisters := by
  intro ctrl w size hsize
  have h1 : penaltyRuns w size ≤ 2 * 177 * 177 :=
    (penaltyRuns_le w size).trans (Nat.mul_le_mul (by omega) hsize)
  have h2 : penaltyBlocks w size ≤ 3 * (176 * 176) :=
    (penaltyBlocks_le w size).trans (Nat.mul_le_mul_left 3 (Nat.mul_le_mul (by omega) (by omega)))
  have h3 : penaltyPatterns ctrl.patMode w size ≤ 40 * (2 * 177 * 167) :=
    (penaltyPatterns_le _ w size).trans (Nat.mul_le_mul_left 40 (Nat.mul_le_mul (by omega) (by omega)))
  have h4 := penaltyBalance_le ctrl.balMode w size
  simp only [penalties, Penalties.total]
  omega

end Sys2Proof.Proofs
end

section
/-! PROOF. The register page and the read-only windows as the host sees them (10_state.md sections 1 and 2). -/

namespace Sys2Proof.Machine

/-! ### Concatenated fields as numbers -/

/-- A concatenation is the sum of its parts at their places. -/
theorem toNat_append_eq_add {m n : Nat} (x : BitVec m) (y : BitVec n) :
    (x ++ y).toNat = x.toNat * 2 ^ n + y.toNat := by
  rw [BitVec.toNat_append, ← Nat.shiftLeft_add_eq_or_of_lt y.isLt, Nat.shiftLeft_eq]

theorem toNat_bit (b : Bool) : (bit b).toNat = b.toNat := BitVec.toNat_ofBool b

theorem toNat_lane (d : Word) (j : Nat) : (lane d j).toNat = d.toNat / 2 ^ (8 * j) % 256 := by
  rw [lane, BitVec.extractLsb'_toNat, Nat.shiftRight_eq_div_pow]

theorem toNat_getLsbD (d : Word) (i : Nat) : (d.getLsbD i).toNat = d.toNat / 2 ^ i % 2 :=
  Nat.toNat_testBit d.toNat i

theorem toNat_bool_injective : Function.Injective Bool.toNat := by decide

/-- A bit of a word, from the word as a number. -/
theorem getLsbD_eq_of_toNat {d : Word} {i : Nat} {b : Bool} (h : d.toNat / 2 ^ i % 2 = b.toNat) : d.getLsbD i = b :=
  toNat_bool_injective ((toNat_getLsbD d i).trans h)

/-- A field of a word, from the word as a number. -/
theorem extractLsb'_eq_of_toNat {d : Word} {lo n : Nat} {v : BitVec n} (h : d.toNat / 2 ^ lo % 2 ^ n = v.toNat) :
    d.extractLsb' lo n = v := BitVec.eq_of_toNat_eq <| by
  rw [BitVec.extractLsb'_toNat, Nat.shiftRight_eq_div_pow, h]

/-! ### STATUS and the other registers of several fields -/

theorem toNat_statusWord (s : State) :
    (statusWord s).toNat =
      s.engine.isBusy.toNat + 2 * s.status.done.toNat + 4 * s.status.err.toNat + 8 * s.status.gv.toNat +
        16 * s.status.masked.toNat + 32 * s.status.werr.toNat + 256 * s.status.errcode.toNat := by
  simp only [statusWord, toNat_append_eq_add, toNat_bit, BitVec.toNat_ofNat]
  omega

theorem toNat_readReg_ctrl (s : State) :
    (readReg s .ctrl).toNat =
      s.cfg.ctrl.ie.toNat + 2 * s.cfg.ctrl.alnMode.toNat + 4 * s.cfg.ctrl.patMode.toNat +
        8 * s.cfg.ctrl.balMode.toNat := by
  simp only [readReg, toNat_append_eq_add, toNat_bit, BitVec.toNat_ofNat]
  omega

theorem toNat_readReg_prof0 (s : State) :
    (readReg s .prof0).toNat = s.cfg.g0Blocks.toNat + 256 * s.cfg.g0Dcw.toNat := by
  simp only [readReg, toNat_append_eq_add, BitVec.toNat_ofNat]
  omega

theorem toNat_readReg_prof1 (s : State) :
    (readReg s .prof1).toNat = s.cfg.g1Blocks.toNat + 256 * s.cfg.g1Dcw.toNat := by
  simp only [readReg, toNat_append_eq_add, BitVec.toNat_ofNat]
  omega

theorem toNat_readReg_alnPos0 (s : State) :
    (readReg s .alnPos0).toNat =
      s.cfg.aln[0].toNat + 2 ^ 8 * s.cfg.aln[1].toNat + 2 ^ 16 * s.cfg.aln[2].toNat + 2 ^ 24 * s.cfg.aln[3].toNat := by
  simp only [readReg, toNat_append_eq_add]
  omega

theorem toNat_readReg_alnPos1 (s : State) :
    (readReg s .alnPos1).toNat =
      s.cfg.aln[4].toNat + 2 ^ 8 * s.cfg.aln[5].toNat + 2 ^ 16 * s.cfg.aln[6].toNat := by
  simp only [readReg, toNat_append_eq_add, BitVec.toNat_ofNat]
  omega

theorem toNat_readReg_gridInfo (s : State) :
    (readReg s .gridInfo).toNat = s.gridInfo.size.toNat + 256 * s.gridInfo.gver.toNat := by
  simp only [readReg, toNat_append_eq_add, BitVec.toNat_ofNat]
  omega

/-- A register reads as the word of its number. -/
theorem eq_ofNat_of_toNat_eq {w : Word} {n : Nat} (h : w.toNat = n) : w = BitVec.ofNat 32 n := by
  rw [← h, BitVec.ofNat_toNat, BitVec.setWidth_eq]

/-- Every row of the table is a register with that value (10_state.md R52 to R79). -/
theorem readReg_of_mem_registerTable {s : State} {a n : Nat} (h : (a, n) ∈ Claims.registerTable s) :
    ∃ r, regAt a = some r ∧ readReg s r = BitVec.ofNat 32 n := by
  simp only [Claims.registerTable, List.mem_append, List.mem_cons, List.not_mem_nil, or_false, Prod.mk.injEq,
    List.mem_map, List.mem_finRange, true_and] at h
  rcases h with (h | h) | ⟨m, rfl, rfl⟩
  · rcases h with ⟨rfl, rfl⟩ | ⟨rfl, rfl⟩ | ⟨rfl, rfl⟩ | ⟨rfl, rfl⟩ | ⟨rfl, rfl⟩ | ⟨rfl, rfl⟩ | ⟨rfl, rfl⟩ |
      ⟨rfl, rfl⟩ | ⟨rfl, rfl⟩ | ⟨rfl, rfl⟩ | ⟨rfl, rfl⟩ | ⟨rfl, rfl⟩ | ⟨rfl, rfl⟩ | ⟨rfl, rfl⟩ | ⟨rfl, rfl⟩ | ⟨rfl, rfl⟩
    · exact ⟨.id, rfl, rfl⟩
    · exact ⟨.ctrl, rfl, eq_ofNat_of_toNat_eq (toNat_readReg_ctrl s)⟩
    · exact ⟨.status, rfl, eq_ofNat_of_toNat_eq (toNat_statusWord s)⟩
    · exact ⟨.cmd, rfl, eq_ofNat_of_toNat_eq rfl⟩
    · exact ⟨.result, rfl, eq_ofNat_of_toNat_eq rfl⟩
    · exact ⟨.version, rfl, (BitVec.ofNat_toNat 32 _).symm⟩
    · exact ⟨.eccl, rfl, (BitVec.ofNat_toNat 32 _).symm⟩
    · exact ⟨.prof0, rfl, eq_ofNat_of_toNat_eq (toNat_readReg_prof0 s)⟩
    · exact ⟨.prof1, rfl, eq_ofNat_of_toNat_eq (toNat_readReg_prof1 s)⟩
    · exact ⟨.necc, rfl, (BitVec.ofNat_toNat 32 _).symm⟩
    · exact ⟨.alnCnt, rfl, (BitVec.ofNat_toNat 32 _).symm⟩
    · exact ⟨.alnPos0, rfl, eq_ofNat_of_toNat_eq (toNat_readReg_alnPos0 s)⟩
    · exact ⟨.alnPos1, rfl, eq_ofNat_of_toNat_eq (toNat_readReg_alnPos1 s)⟩
    · exact ⟨.vinfo, rfl, (BitVec.ofNat_toNat 32 _).symm⟩
    · exact ⟨.rsSrc, rfl, (BitVec.ofNat_toNat 32 _).symm⟩
    · exact ⟨.rsDst, rfl, (BitVec.ofNat_toNat 32 _).symm⟩
  · rcases h with ⟨rfl, rfl⟩ | ⟨rfl, rfl⟩ | ⟨rfl, rfl⟩ | ⟨rfl, rfl⟩ | ⟨rfl, rfl⟩ | ⟨rfl, rfl⟩ | ⟨rfl, rfl⟩ |
      ⟨rfl, rfl⟩ | ⟨rfl, rfl⟩ | ⟨rfl, rfl⟩ | ⟨rfl, rfl⟩
    · exact ⟨.genDeg, rfl, (BitVec.ofNat_toNat 32 _).symm⟩
    · exact ⟨.cwCount, rfl, (BitVec.ofNat_toNat 32 _).symm⟩
    · exact ⟨.placed, rfl, (BitVec.ofNat_toNat 32 _).symm⟩
    · exact ⟨.remBits, rfl, (BitVec.ofNat_toNat 32 _).symm⟩
    · exact ⟨.gridInfo, rfl, eq_ofNat_of_toNat_eq (toNat_readReg_gridInfo s)⟩
    · exact ⟨.fmt, rfl, (BitVec.ofNat_toNat 32 _).symm⟩
    · exact ⟨.maskId, rfl, (BitVec.ofNat_toNat 32 _).symm⟩
    · exact ⟨.pen1, rfl, eq_ofNat_of_toNat_eq rfl⟩
    · exact ⟨.pen2, rfl, eq_ofNat_of_toNat_eq rfl⟩
    · exact ⟨.pen3, rfl, eq_ofNat_of_toNat_eq rfl⟩
    · exact ⟨.pen4, rfl, eq_ofNat_of_toNat_eq rfl⟩
  · refine ⟨.score m, ?_, eq_ofNat_of_toNat_eq rfl⟩
    fin_cases m <;> rfl

/-! ### Steps of the host while idle -/

/-- The answer to an access is no register. -/
theorem readReg_withAnswer (s : State) (answer : Option Answer) (r : Reg) :
    readReg { s with answer := answer } r = readReg s r := by cases r <;> rfl

/-- The schedule is no register. -/
theorem readReg_takeInput (s : State) (r : Reg) : readReg (takeInput s) r = readReg s r := by cases r <;> rfl

theorem step_read_idle {s : State} {a : HAddr} (hi : s.engine = .idle) (h : Claims.readIsNext s a) :
    step s = .next (Claims.answered s (.read (readRegion (takeInput s) (regionOf a)) (regionOf a).resp)) := by
  obtain ⟨hr, rest, hin⟩ := h
  have hidle : (takeInput s).engine.isBusy = false := by rw [takeInput_engine, hi]; rfl
  rw [step_of_read hin, portRead, takeInput_rst, if_neg (by simp [hr]), hostRead_exact (.inl hidle)]
  rfl

theorem step_readReg_idle {s : State} {a : HAddr} {r : Reg} (hi : s.engine = .idle) (h : Claims.readIsNext s a)
    (hreg : regAt a.toNat = some r) : step s = .next (Claims.answered s (.read (readReg s r) .ok)) := by
  rw [step_read_idle hi h, regionOf_reg hreg, readRegion, readReg_takeInput]
  rfl

theorem step_write_idle {s : State} {a : HAddr} {d : Word} (hi : s.engine = .idle) (h : Claims.writeIsNext s a d)
    (hresp : (regionOf a).resp = .ok) :
    step s = .next { writeRegion (takeInput s) (regionOf a) d with answer := some (.wrote .ok) } := by
  obtain ⟨hr, rest, hin⟩ := h
  have hidle : (takeInput s).engine.isBusy = false := by rw [takeInput_engine, hi]; rfl
  rw [step_of_write hin, portWrite, takeInput_rst, if_neg (by simp [hr]), hostWrite_performed d hresp (.inl hidle)]

/-- A write that changes nothing where it is mapped only answers OK. -/
theorem step_write_ignored {s : State} {a : HAddr} {d : Word} {g : Region} (hi : s.engine = .idle)
    (h : Claims.writeIsNext s a d) (hg : regionOf a = g) (hresp : g.resp = .ok)
    (hsame : writeRegion (takeInput s) g d = takeInput s) : step s = .next (Claims.answered s (.wrote .ok)) := by
  subst hg
  rw [step_write_idle hi h hresp, hsame]
  rfl

/-! ### Writes to registers -/

/-- The read-only registers of the page store nothing (10_state.md R52, R56, R68, R70 to R79). -/
theorem exists_readOnly_reg {n : Nat} (h4 : n % 4 = 0)
    (h : n = 0 ∨ n = 0x10 ∨ n = 0x40 ∨ (0x48 ≤ n ∧ n ≤ 0x68) ∨ (0x70 ≤ n ∧ n ≤ 0x8C)) :
    ∃ r, regAt n = some r ∧ ∀ s d, writeReg s r d = s := by
  obtain ⟨k, rfl⟩ : ∃ k, n = 4 * k := ⟨n / 4, by omega⟩
  have hk : k = 0 ∨ k = 4 ∨ k = 16 ∨ (18 ≤ k ∧ k ≤ 26) ∨ (28 ≤ k ∧ k ≤ 35) := by omega
  rcases hk with rfl | rfl | rfl | ⟨lo, hi⟩ | ⟨lo, hi⟩
  · exact ⟨_, rfl, fun _ _ => rfl⟩
  · exact ⟨_, rfl, fun _ _ => rfl⟩
  · exact ⟨_, rfl, fun _ _ => rfl⟩
  · interval_cases k <;> exact ⟨_, rfl, fun _ _ => rfl⟩
  · interval_cases k <;> exact ⟨_, rfl, fun _ _ => rfl⟩

/-- A write to a register other than STATUS and CMD is read back at no other register (10_state.md R51). -/
theorem readReg_writeReg_of_ne {r r' : Reg} (hstatus : r ≠ .status) (hcmd : r ≠ .cmd) (h : r' ≠ r) (s : State)
    (d : Word) : readReg (writeReg s r d) r' = readReg s r' := by
  cases r with
  | status => exact absurd rfl hstatus
  | cmd => exact absurd rfl hcmd
  | id | result | genDeg | placed | remBits | gridInfo | fmt | maskId | pen1 | pen2 | pen3 | pen4 | score => rfl
  | alnPos0 =>
    cases r' with
    | alnPos0 => exact absurd rfl h
    | alnPos1 => simp [readReg, writeReg, CfgRegs.write]
    | _ => rfl
  | alnPos1 =>
    cases r' with
    | alnPos1 => exact absurd rfl h
    | alnPos0 => simp [readReg, writeReg, CfgRegs.write]
    | _ => rfl
  | _ => cases r' <;> first | rfl | exact absurd rfl h

/-- Such a write changes only the configuration registers and CW_COUNT (10_state.md R51). -/
theorem writeReg_frame {r : Reg} (hstatus : r ≠ .status) (hcmd : r ≠ .cmd) (s : State) (d : Word) :
    ∃ cfg cwCount, writeReg s r d = { s with cfg := cfg, cwCount := cwCount } := by
  cases r with
  | status => exact absurd rfl hstatus
  | cmd => exact absurd rfl hcmd
  | _ => exact ⟨_, _, rfl⟩

/-- Keeping the low w bits of a word is masking it. -/
theorem eq_and_of_toNat_eq_mod {r d : Word} (w : Nat) (hw : w ≤ 32) (h : r.toNat = d.toNat % 2 ^ w) :
    r = d &&& BitVec.ofNat 32 (2 ^ w - 1) := by
  have hlt : 2 ^ w - 1 < 2 ^ 32 := by
    have := Nat.pow_le_pow_right (n := 2) (by omega) hw
    omega
  apply BitVec.eq_of_toNat_eq
  rw [h, BitVec.toNat_and, BitVec.toNat_ofNat, Nat.mod_eq_of_lt hlt, Nat.and_two_pow_sub_one_eq_mod]

theorem readBack_field (d : Word) {w : Nat} (hw : w ≤ 32) :
    (d.setWidth w).setWidth 32 = d &&& BitVec.ofNat 32 (2 ^ w - 1) :=
  eq_and_of_toNat_eq_mod w hw (by rw [BitVec.toNat_setWidth_of_le hw, BitVec.toNat_setWidth])

theorem readBack_ctrl (s : State) (d : Word) : readReg (writeReg s .ctrl d) .ctrl = d &&& 0xF :=
  eq_and_of_toNat_eq_mod 4 (by decide) <| by
    rw [toNat_readReg_ctrl]
    simp only [writeReg, CfgRegs.write, toNat_getLsbD]
    omega

theorem readBack_prof0 (s : State) (d : Word) : readReg (writeReg s .prof0 d) .prof0 = d &&& 0xFFFF :=
  eq_and_of_toNat_eq_mod 16 (by decide) <| by
    rw [toNat_readReg_prof0]
    simp only [writeReg, CfgRegs.write, toNat_lane]
    omega

theorem readBack_prof1 (s : State) (d : Word) : readReg (writeReg s .prof1 d) .prof1 = d &&& 0xFFFF :=
  eq_and_of_toNat_eq_mod 16 (by decide) <| by
    rw [toNat_readReg_prof1]
    simp only [writeReg, CfgRegs.write, toNat_lane]
    omega

theorem readBack_necc (s : State) (d : Word) : readReg (writeReg s .necc d) .necc = d &&& 0xFF :=
  eq_and_of_toNat_eq_mod 8 (by decide) <| by
    show ((lane d 0).setWidth 32).toNat = _
    rw [BitVec.toNat_setWidth_of_le (by decide), toNat_lane]
    omega

theorem readBack_alnPos0 (s : State) (d : Word) : readReg (writeReg s .alnPos0 d) .alnPos0 = d &&& 0xFFFFFFFF :=
  eq_and_of_toNat_eq_mod 32 (by decide) <| by
    rw [toNat_readReg_alnPos0]
    simp only [writeReg, CfgRegs.write, Vector.getElem_set, Nat.reduceEqDiff, reduceIte, toNat_lane]
    omega

theorem readBack_alnPos1 (s : State) (d : Word) : readReg (writeReg s .alnPos1 d) .alnPos1 = d &&& 0xFFFFFF :=
  eq_and_of_toNat_eq_mod 24 (by decide) <| by
    rw [toNat_readReg_alnPos1]
    simp only [writeReg, CfgRegs.write, Vector.getElem_set, Nat.reduceEqDiff, reduceIte, toNat_lane]
    omega

/-- Every writable register reads back the bits it stores (10_state.md R53, R57 to R67, R69). -/
theorem exists_reg_of_mem_rwRegisters {a : HAddr} {mask : Word} (h : (a, mask) ∈ Claims.rwRegisters) :
    ∃ r, regAt a.toNat = some r ∧ r ≠ .status ∧ r ≠ .cmd ∧ ∀ s d, readReg (writeReg s r d) r = d &&& mask := by
  simp only [Claims.rwRegisters, List.mem_cons, List.not_mem_nil, or_false, Prod.mk.injEq] at h
  rcases h with ⟨rfl, rfl⟩ | ⟨rfl, rfl⟩ | ⟨rfl, rfl⟩ | ⟨rfl, rfl⟩ | ⟨rfl, rfl⟩ | ⟨rfl, rfl⟩ | ⟨rfl, rfl⟩ | ⟨rfl, rfl⟩ |
    ⟨rfl, rfl⟩ | ⟨rfl, rfl⟩ | ⟨rfl, rfl⟩ | ⟨rfl, rfl⟩ | ⟨rfl, rfl⟩
  · exact ⟨.ctrl, rfl, nofun, nofun, readBack_ctrl⟩
  · exact ⟨.version, rfl, nofun, nofun, fun _ d => readBack_field d (w := 6) (by decide)⟩
  · exact ⟨.eccl, rfl, nofun, nofun, fun _ d => readBack_field d (w := 2) (by decide)⟩
  · exact ⟨.prof0, rfl, nofun, nofun, readBack_prof0⟩
  · exact ⟨.prof1, rfl, nofun, nofun, readBack_prof1⟩
  · exact ⟨.necc, rfl, nofun, nofun, readBack_necc⟩
  · exact ⟨.alnCnt, rfl, nofun, nofun, fun _ d => readBack_field d (w := 3) (by decide)⟩
  · exact ⟨.alnPos0, rfl, nofun, nofun, readBack_alnPos0⟩
  · exact ⟨.alnPos1, rfl, nofun, nofun, readBack_alnPos1⟩
  · exact ⟨.vinfo, rfl, nofun, nofun, fun _ d => readBack_field d (w := 18) (by decide)⟩
  · exact ⟨.rsSrc, rfl, nofun, nofun, fun _ d => readBack_field d (w := 12) (by decide)⟩
  · exact ⟨.rsDst, rfl, nofun, nofun, fun _ d => readBack_field d (w := 12) (by decide)⟩
  · exact ⟨.cwCount, rfl, nofun, nofun, fun _ d => readBack_field d (w := 13) (by decide)⟩

end Sys2Proof.Machine

namespace Sys2Proof.Proofs

open Sys2Proof.Machine

/-- Settles O51: STATUS as a number is the sum of its fields, each at its place. -/
theorem statusWordBits : Obligations.StatusWordBits := by
  intro s
  have hword := toNat_statusWord s
  have hbusy := s.engine.isBusy.toNat_le
  have hdone := s.status.done.toNat_le
  have herr := s.status.err.toNat_le
  have hgv := s.status.gv.toNat_le
  have hmasked := s.status.masked.toNat_le
  have hwerr := s.status.werr.toNat_le
  have hcode := s.status.errcode.isLt
  have hgap6 : (0 : BitVec 2).toNat = 0 := rfl
  have hgap12 : (0 : BitVec 20).toNat = 0 := rfl
  exact ⟨getLsbD_eq_of_toNat (by omega), getLsbD_eq_of_toNat (by omega), getLsbD_eq_of_toNat (by omega),
    getLsbD_eq_of_toNat (by omega), getLsbD_eq_of_toNat (by omega), getLsbD_eq_of_toNat (by omega),
    extractLsb'_eq_of_toNat (by omega), extractLsb'_eq_of_toNat (by omega), extractLsb'_eq_of_toNat (by omega)⟩

/-- Settles O59: every row of the table is a register of the map, and an idle read answers its value. -/
theorem idleRegisterReads : Obligations.IdleRegisterReads := by
  intro s a hi h
  refine ⟨fun r hr => step_readReg_idle hi h hr, fun n hn => ?_⟩
  obtain ⟨r, hr, e⟩ := readReg_of_mem_registerTable hn
  rw [step_readReg_idle hi h hr, e]

/-- Settles O53: the step performs the write, which touches only its register's fields. -/
theorem writableRegistersReadBack : Obligations.WritableRegistersReadBack := by
  intro s a mask d hmem hi h
  obtain ⟨r, hr, hstatus, hcmd, hback⟩ := exists_reg_of_mem_rwRegisters hmem
  have hg := regionOf_reg hr
  have hstep := step_write_idle hi h (by rw [hg]; rfl)
  rw [hg, writeRegion] at hstep
  obtain ⟨cfg, cwCount, hframe⟩ := writeReg_frame hstatus hcmd (takeInput s) d
  refine ⟨_, r, hstep, hr, ?_, fun r' hr' => ?_, fun b => ?_, ?_⟩
  · rw [readReg_withAnswer, hback]
  · rw [readReg_withAnswer, readReg_writeReg_of_ne hstatus hcmd hr', readReg_takeInput]
  · rw [hframe]; rfl
  · rw [hframe]; rfl

/-- Settles O54: each read-only location is a register or a window whose write leaves the state. -/
theorem readOnlyLocationsIgnoreWrites : Obligations.ReadOnlyLocationsIgnoreWrites := by
  intro s a d hi h ⟨h4, hro⟩
  by_cases hreg : a.toNat < 0x400
  · obtain ⟨r, hr, hsame⟩ := exists_readOnly_reg h4 (by omega)
    exact step_write_ignored hi h (regionOf_reg hr) rfl (hsame _ d)
  · have hwin : (0x400 ≤ a.toNat ∧ a.toNat < 0x500) ∨ (0x8000 ≤ a.toNat ∧ a.toNat < 0xA000) ∨
        (0xA000 ≤ a.toNat ∧ a.toNat < 0xC000) := by omega
    rcases hwin with ⟨lo, hi'⟩ | ⟨lo, hi'⟩ | ⟨lo, hi'⟩
    · exact step_write_ignored hi h (regionOf_gen h4 lo hi') rfl rfl
    · exact step_write_ignored hi h (regionOf_gridV h4 lo hi') rfl rfl
    · exact step_write_ignored hi h (regionOf_gridP h4 lo hi') rfl rfl

end Sys2Proof.Proofs
end

section
/-! PROOF. Host accesses by address: what is mapped, the busy rules, and the windows (20_memory.md R153 to R157, R160, R171,
R172). -/

namespace Sys2Proof.Machine

/-! ### The address map backwards -/

/-- No register has two offsets (10_state.md section 2). -/
theorem regAt_inj {m n : Nat} {r : Reg} (hm : regAt m = some r) (hn : regAt n = some r) : m = n := by
  have hinj : ∀ i < 36, ∀ j < 36, regAt (4 * i) = regAt (4 * j) → regAt (4 * i) ≠ none → i = j := by decide
  obtain ⟨hm4, hmlt⟩ := regAt_aligned hm
  obtain ⟨hn4, hnlt⟩ := regAt_aligned hn
  have em : 4 * (m / 4) = m := by omega
  have en : 4 * (n / 4) = n := by omega
  have := hinj (m / 4) (by omega) (n / 4) (by omega) (by rw [em, en, hm, hn]) (by rw [em, hm]; nofun)
  omega

theorem regAt_of_regionOf {a : HAddr} {r : Reg} (h : regionOf a = .reg r) : regAt a.toNat = some r := by
  unfold regionOf at h
  simp only at h
  split_ifs at h
  cases hr : regAt a.toNat <;> rw [hr] at h <;> cases h
  rfl

/-- An address that names nothing (20_memory.md R153, R157). -/
theorem regionOf_unmapped {a : HAddr} (h : Claims.misaligned a ∨ Claims.unassigned a) :
    regionOf a = .misaligned ∨ regionOf a = .unassigned := by
  by_cases h4 : a.toNat % 4 = 0
  · have hu := h.resolve_left (not_not_intro h4)
    unfold Claims.unassigned at hu
    by_cases hlt : a.toNat < 0x400
    · exact .inr (regionOf_hole h4 hlt (by omega))
    · exact .inr (regionOf_gap h4 (by omega))
  · exact .inl (regionOf_misaligned h4)

theorem resp_of_unmapped {a : HAddr} (h : Claims.misaligned a ∨ Claims.unassigned a) : (regionOf a).resp = .err := by
  rcases regionOf_unmapped h with e | e <;> rw [e] <;> rfl

/-- A mapped address answers OK: it is a register's or lies in a window (20_memory.md R152). -/
theorem resp_of_mapped {a : HAddr} (h : Claims.mapped a) : (regionOf a).resp = .ok := by
  obtain ⟨hal, hu⟩ := h
  have h4 : a.toNat % 4 = 0 := not_not.1 hal
  unfold Claims.unassigned at hu
  have hwhere : (a.toNat < 0x90 ∧ a.toNat ≠ 0x6C) ∨ (0x400 ≤ a.toNat ∧ a.toNat < 0x500) ∨
      (0x1000 ≤ a.toNat ∧ a.toNat < 0x4000) ∨ (0x8000 ≤ a.toNat ∧ a.toNat < 0xA000) ∨
      (0xA000 ≤ a.toNat ∧ a.toNat < 0xC000) := by omega
  rcases hwhere with ⟨hlt, hne⟩ | ⟨lo, hi⟩ | ⟨lo, hi⟩ | ⟨lo, hi⟩ | ⟨lo, hi⟩
  · obtain ⟨r, hr⟩ := regAt_isSome h4 hlt hne
    rw [regionOf_reg hr]; rfl
  · rw [regionOf_gen h4 lo hi]; rfl
  · rw [regionOf_buffer h4 lo hi]; rfl
  · rw [regionOf_gridV h4 lo hi]; rfl
  · rw [regionOf_gridP h4 lo hi]; rfl

/-- Only the first four registers read exactly while busy (20_memory.md R172). -/
theorem exactWhileBusy_of_mapped {a : HAddr} (h : Claims.mapped a) (h0 : a ≠ 0x000) (h4 : a ≠ 0x004) (h8 : a ≠ 0x008)
    (hC : a ≠ 0x00C) : (regionOf a).exactWhileBusy = false := by
  have hresp := resp_of_mapped h
  cases hg : regionOf a with
  | reg r =>
    have hr := regAt_of_regionOf hg
    cases r with
    | id => exact absurd (BitVec.eq_of_toNat_eq (regAt_inj hr rfl)) h0
    | ctrl => exact absurd (BitVec.eq_of_toNat_eq (regAt_inj hr rfl)) h4
    | status => exact absurd (BitVec.eq_of_toNat_eq (regAt_inj hr rfl)) h8
    | cmd => exact absurd (BitVec.eq_of_toNat_eq (regAt_inj hr rfl)) hC
    | _ => rfl
  | unassigned => rw [hg] at hresp; cases hresp
  | misaligned => rw [hg] at hresp; cases hresp
  | _ => rfl

/-! ### Steps of the host, busy or idle -/

theorem step_hostRead {s : State} {a : HAddr} (h : Claims.readIsNext s a) :
    step s = .next (hostRead a (takeInput s)) := by
  obtain ⟨hr, rest, hin⟩ := h
  rw [step_of_read hin, portRead, takeInput_rst, hr]
  rfl

theorem step_hostWrite {s : State} {a : HAddr} {d : Word} (h : Claims.writeIsNext s a d) :
    step s = .next (hostWrite a d (takeInput s)) := by
  obtain ⟨hr, rest, hin⟩ := h
  rw [step_of_write hin, portWrite, takeInput_rst, hr]
  rfl

/-- What a location reads as depends neither on the schedule nor on the last answer (20_memory.md R160). -/
theorem readRegion_answered (s : State) (r : Answer) (g : Region) :
    readRegion (Claims.answered s r) g = readRegion s g := by
  cases g with
  | reg r' => cases r' <;> rfl
  | _ => rfl

theorem readRegion_takeInput (s : State) (g : Region) : readRegion (takeInput s) g = readRegion s g := by
  cases g with
  | reg r => exact readReg_takeInput s r
  | _ => rfl

/-- The reads that are exact in every state of the engine (20_memory.md R153, R157, R172). -/
theorem step_read_exact {s : State} {a : HAddr} {g : Region} (h : Claims.readIsNext s a) (hg : regionOf a = g)
    (hx : g.exactWhileBusy = true) : step s = .next (Claims.answered s (.read (readRegion s g) g.resp)) := by
  subst hg
  rw [step_hostRead h, hostRead_exact (.inr hx), readRegion_takeInput]
  rfl

theorem step_readRegion_idle {s : State} {a : HAddr} {g : Region} (hi : s.engine = .idle) (h : Claims.readIsNext s a)
    (hg : regionOf a = g) : step s = .next (Claims.answered s (.read (readRegion s g) g.resp)) := by
  rw [step_read_idle hi h, hg, readRegion_takeInput]

theorem step_write_unmapped {s : State} {a : HAddr} {d : Word} (h : Claims.writeIsNext s a d)
    (hresp : (regionOf a).resp = .err) : step s = .next (Claims.answered s (.wrote .err)) := by
  rw [step_hostWrite h, hostWrite_unmapped d hresp]
  rfl

/-! ### Words and their bytes -/

/-- Four bytes packed with the lowest in the lowest lane (20_memory.md R154, R155). -/
theorem lane_pack (f : Nat → Byte) {j : Nat} (hj : j < 4) : lane (f 3 ++ f 2 ++ f 1 ++ f 0) j = f j := by
  have hword : (f 3 ++ f 2 ++ f 1 ++ f 0).toNat =
      (f 0).toNat + 2 ^ 8 * (f 1).toNat + 2 ^ 16 * (f 2).toNat + 2 ^ 24 * (f 3).toNat := by
    simp only [toNat_append_eq_add]
    omega
  have h0 := (f 0).isLt
  have h1 := (f 1).isLt
  have h2 := (f 2).isLt
  have h3 := (f 3).isLt
  apply extractLsb'_eq_of_toNat
  interval_cases j <;> omega

theorem lane_bufferWord (s : State) (a : Nat) {j : Nat} (hj : j < 4) : lane (bufferWord s a) j = byteAt s (a + j) :=
  lane_pack (fun j => byteAt s (a + j)) hj

theorem lane_genWord (s : State) (w : Nat) {j : Nat} (hj : j < 4) :
    lane (genWord s w) j = s.gen.toList.getD (4 * w + j) 0 :=
  lane_pack (fun j => s.gen.toList.getD (4 * w + j) 0) hj

/-- A bit of a grid window is a cell inside the symbol of a valid grid (20_memory.md R156). -/
theorem getLsbD_gridWord (s : State) (plane : Plane) (y w : Nat) {b : Nat} (hb : b < 32) :
    (gridWord s plane y w).getLsbD b = true ↔
      s.status.gv = true ∧ y < gridSize s ∧ 32 * w + b < gridSize s ∧ plane.get (32 * w + b) y = true := by
  rw [gridWord, getLsbD_bitsOf]
  simp [hb, and_assoc]

/-- Word w of a buffer window is the four bytes from 4w on (20_memory.md R155). -/
theorem regionOf_bufferWord {buf : Buffer} {w : Nat} {a : HAddr} (hw : w < 1024) (ha : a.toNat = buf.base + 4 * w) :
    regionOf a = .buffer (buf.base + 4 * w) := by
  obtain ⟨lo, hi⟩ := base_bounds buf
  have hsize : Config.bufSize = 0x1000 := rfl
  have h4 : buf.base % 4 = 0 := by cases buf <;> rfl
  rw [← ha]
  exact regionOf_buffer (by omega) (by omega) (by omega)

theorem step_write_bufferWord {s : State} {a : HAddr} {d : Word} {buf : Buffer} {w : Nat} (hi : s.engine = .idle)
    (h : Claims.writeIsNext s a d) (hg : regionOf a = .buffer (buf.base + 4 * w)) :
    step s = .next { Claims.answered s (.wrote .ok) with
      mem := writeBuf s.mem buf (4 * w) ((List.range 4).map (lane d)) } := by
  rw [step_write_idle hi h (by rw [hg]; rfl), hg]
  rfl

end Sys2Proof.Machine

namespace Sys2Proof.Proofs

open Sys2Proof.Machine

/-- Settles O47: the address names nothing, so the read is exact and the write not performed. -/
theorem unmappedAccessHasNoEffect : Obligations.UnmappedAccessHasNoEffect := by
  intro s a d h
  refine ⟨fun hread => ?_, fun hwrite => step_write_unmapped hwrite (resp_of_unmapped h)⟩
  rcases regionOf_unmapped h with hg | hg <;> exact step_read_exact hread hg rfl

/-- Settles O48: only STATUS is written while busy; where something is mapped, the drop is recorded in WERR. -/
theorem busyWritesAreDropped : Obligations.BusyWritesAreDropped := by
  intro s c a d hbusy h
  have hb : (takeInput s).engine.isBusy = true := by rw [takeInput_engine, hbusy]; rfl
  refine ⟨fun hmap hne => ?_, fun ha => ?_, fun hmap => ?_⟩
  · have hstatus : regionOf a ≠ .reg .status := fun hg =>
      hne (BitVec.eq_of_toNat_eq (regAt_inj (regAt_of_regionOf hg) rfl))
    rw [step_hostWrite h, hostWrite_dropped d (resp_of_mapped hmap) hb hstatus]
    rfl
  · have hg : regionOf a = .reg .status := regionOf_reg (by rw [ha]; rfl)
    rw [step_hostWrite h, hostWrite_performed d (by rw [hg]; rfl) (.inr hg), hg, writeRegion, writeReg, clear_eq]
    rfl
  · refine step_write_unmapped h (resp_of_unmapped ?_)
    by_contra hno
    exact hmap (not_or.1 hno)

/-- Settles O49: the first four registers are exact; any other mapped read draws a free value. -/
theorem busyReads : Obligations.BusyReads := by
  intro s c a hbusy h hmap
  have hb : (takeInput s).engine.isBusy = true := by rw [takeInput_engine, hbusy]; rfl
  refine ⟨?_, ?_, ?_, ?_, fun h0 h4 h8 hC => ?_⟩
  · rintro rfl; exact step_read_exact h (regionOf_reg rfl) rfl
  · rintro rfl; exact step_read_exact h (regionOf_reg rfl) rfl
  · rintro rfl; exact step_read_exact h (regionOf_reg rfl) rfl
  · rintro rfl; exact step_read_exact h (regionOf_reg rfl) rfl
  · have hx := exactWhileBusy_of_mapped hmap h0 h4 h8 hC
    exact ⟨_, _, (step_hostRead h).trans (congrArg _ (hostRead_busy hb hx)), rfl⟩

/-- Settles O50: the read leaves what every location reads as. -/
theorem idleReadsHaveNoSideEffect : Obligations.IdleReadsHaveNoSideEffect := by
  intro s a rest hr hi hin
  refine ⟨_, _, step_readRegion_idle hi ⟨hr, _, hin⟩ rfl, ?_⟩
  have hnext (r : Answer) : Claims.readIsNext (Claims.answered s r) a := ⟨hr, rest, congrArg List.tail hin⟩
  rw [step_readRegion_idle (s := Claims.answered s _) hi (hnext _) rfl, readRegion_answered]

/-- Settles O55: the window's word is the four bytes from its address on, and the write stores its lanes there. -/
theorem bufferWindowIsLittleEndian : Obligations.BufferWindowIsLittleEndian := by
  intro s buf w a hi hw ha
  have hg := regionOf_bufferWord hw ha
  constructor
  · intro h
    refine ⟨_, step_readRegion_idle hi h hg, fun j hj => ?_⟩
    rw [bufByte, ← Nat.add_assoc]
    exact lane_bufferWord s _ hj
  · intro d h
    refine ⟨_, step_write_bufferWord hi h hg, rfl, fun j hj => ?_, fun b hb => ?_⟩
    · have hstored := lookup_writeBuf_inside s.mem buf (4 * w) ((List.range 4).map (lane d)) (j := j) (by simpa using hj)
      simp only [List.getElem_map, List.getElem_range] at hstored
      rw [bufByte, byteAt, hstored]
      rfl
    · rw [ha] at hb
      exact byteAt_congr (lookup_writeBuf_outside s.mem buf (4 * w) _ hb) rfl

/-- Settles O56: each window reads as its word's bits or bytes, and is read-only. -/
theorem gridAndGenWindows : Obligations.GridAndGenWindows := by
  intro s a hi hal
  have h4 : a.toNat % 4 = 0 := not_not.1 hal
  refine ⟨fun lo hlt h => ?_, fun lo hlt h => ?_, fun hwin d h => ?_⟩
  · by_cases hV : a.toNat < 0xA000
    · refine ⟨_, step_readRegion_idle hi h (regionOf_gridV h4 lo hV), fun b hb => ?_⟩
      rw [if_pos hV, show a.toNat % 0x2000 / 32 = (a.toNat - 0x8000) / 32 by omega]
      exact getLsbD_gridWord s s.v _ _ hb
    · refine ⟨_, step_readRegion_idle hi h (regionOf_gridP h4 (by omega) hlt), fun b hb => ?_⟩
      rw [if_neg hV, show a.toNat % 0x2000 / 32 = (a.toNat - 0xA000) / 32 by omega]
      exact getLsbD_gridWord s s.p _ _ hb
  · refine ⟨_, step_readRegion_idle hi h (regionOf_gen h4 lo hlt), fun j hj => ?_⟩
    rw [show a.toNat - 0x400 + j = 4 * ((a.toNat - 0x400) / 4) + j by omega]
    exact lane_genWord s _ hj
  · exact readOnlyLocationsIgnoreWrites s a d hi h ⟨h4, by omega⟩

end Sys2Proof.Proofs
end

section
/-! PROOF. The command words: which words decode, what each decodes to, and the engine's turn on either kind of word
(30_encoding.md sections 1 to 3). -/

namespace Sys2Proof.Machine

open Decode
open Sys2Proof.Laws.TableBits (fixedBits)

/-! ### Fields of a word as numbers -/

theorem field_eq (c : Word) (lo len : Nat) : field c lo len = c.toNat / 2 ^ lo % 2 ^ len := by
  rw [field, BitVec.extractLsb'_toNat, Nat.shiftRight_eq_div_pow]

theorem toNat_byteField (c : Word) (lo : Nat) : (byteField c lo).toNat = c.toNat / 2 ^ lo % 256 := field_eq c lo 8

theorem field_lt_256 (c : Word) (lo : Nat) : field c lo 8 < 256 := (c.extractLsb' lo 8).isLt

/-! ### Rows of the table: the opcode above the reserved bits -/

/-- The opcode is the value of bits 31 to 24. -/
theorem opcode_eq (c : Word) : field c 24 8 = c.toNat / 2 ^ 24 := by
  have hlt : c.toNat / 2 ^ 24 < 2 ^ 8 := Nat.div_lt_of_lt_mul c.isLt
  rw [field_eq, Nat.mod_eq_of_lt hlt]

/-- The opcode is the high part of any row's fixed bits. -/
theorem opcode_eq_div (c : Word) {lo : Nat} (hlo : lo ≤ 24) : field c 24 8 = c.toNat / 2 ^ lo / 2 ^ (24 - lo) := by
  rw [opcode_eq, Nat.div_div_eq_div_mul, ← pow_add, Nat.add_sub_cancel' hlo]

/-- A row's fixed bits are its opcode above its reserved bits. -/
theorem fields_of_matchesRow {c : Word} {lo value : Nat} (hlo : lo ≤ 24) (h : Claims.matchesRow c (lo, value)) :
    field c 24 8 = value / 2 ^ (24 - lo) ∧ field c lo (24 - lo) = value % 2 ^ (24 - lo) := by
  rw [opcode_eq_div c hlo, field_eq, h]
  exact ⟨rfl, rfl⟩

/-- An opcode and zero reserved bits are the fixed bits of a row. -/
theorem matchesRow_of_fields {c : Word} {lo opc : Nat} (hlo : lo ≤ 24) (hopc : field c 24 8 = opc)
    (hres : field c lo (24 - lo) = 0) : Claims.matchesRow c (lo, opc * 2 ^ (24 - lo)) := by
  rw [opcode_eq_div c hlo] at hopc
  rw [field_eq] at hres
  have hsplit := Nat.div_add_mod' (c.toNat / 2 ^ lo) (2 ^ (24 - lo))
  rw [hopc, hres, Nat.add_zero] at hsplit
  exact hsplit.symm

/-! ### The command of a row, with the operands of a word -/

/-- The command with its operands read from a word, each from its field (30_encoding.md R201 to R207). -/
def withOperandsOf (c : Word) : Instr → Instr
  | .gfMul _ _ => .gfMul (byteField c 8) (byteField c 0)
  | .gfDiv _ _ => .gfDiv (byteField c 8) (byteField c 0)
  | .gfExp _ => .gfExp (field c 0 8)
  | .gfLog _ => .gfLog (byteField c 0)
  | .rsGen _ => .rsGen (field c 0 8)
  | .rsEnc _ => .rsEnc (field c 0 8)
  | .gridWr _ _ _ _ => .gridWr (field c 0 8) (field c 8 8) (c.getLsbD 16) (c.getLsbD 17)
  | .gridRd _ _ => .gridRd (field c 0 8) (field c 8 8)
  | .gridRsv _ _ => .gridRsv (field c 0 8) (field c 8 8)
  | .maskScore _ => .maskScore (field c 0 8)
  | .maskApply _ => .maskApply (field c 0 8)
  | .fmtEnc _ => .fmtEnc (field c 0 8)
  | i => i

/-- An operand read from an 8-bit field fits it. -/
theorem wellFormed_withOperandsOf (c : Word) (i : Instr) : (withOperandsOf c i).WellFormed := by
  cases i <;> simp [withOperandsOf, Instr.WellFormed, Instr.wellFormed, field_lt_256]

/-- A word with the fixed bits of a command's row decodes to that command, with the word's operands. -/
theorem decode_of_matchesRow {c : Word} {i : Instr} (h : Claims.matchesRow c (fixedBits i)) :
    decode c = .ok (withOperandsOf c i) := by
  cases i
  -- The row's opcode selects the command's format, and its zero reserved bits pass that format's check.
  all_goals
    obtain ⟨hopc, hres⟩ := fields_of_matchesRow (by decide) h
    simp only [Nat.reducePow, Nat.reduceSub, Nat.reduceDiv, Nat.reduceMod] at hopc hres
    simp only [decode, hopc, formatZ, formatAB, formatBElement, formatB, formatXYW, formatXY, hres, if_true, withOperandsOf]

/-- A format accepts a word only when it has the fixed bits of the format's commands. -/
theorem matchesRow_of_accepted {c : Word} {lo opc : Nat} {i j : Instr} (hopc : field c 24 8 = opc)
    (h : (if field c lo (24 - lo) = 0 then .ok j else .error .reservedField) = Except.ok (ε := Reject) i)
    (hrow : fixedBits j = (lo, opc * 2 ^ (24 - lo))) (hlo : lo ≤ 24) : Claims.matchesRow c (fixedBits i) := by
  split at h
  next hres =>
    cases h
    rw [hrow]
    exact matchesRow_of_fields hlo hopc hres
  next => cases h

/-- A word that decodes has the fixed bits of its command's row: the decoder's cases, one per opcode. -/
theorem matchesRow_of_decode {c : Word} {i : Instr} (h : decode c = .ok i) : Claims.matchesRow c (fixedBits i) := by
  unfold decode at h
  split at h
  -- The last case is the reserved opcodes'; in every other a format accepted the word.
  case h_22 => cases h
  all_goals exact matchesRow_of_accepted ‹field c 24 8 = _› h rfl (by decide)

/-! ### The encoder -/

/-- A well-formed command's word has the fixed bits of its row. -/
theorem encode_matchesRow : ∀ i : Instr, i.WellFormed → Claims.matchesRow (encode i) (fixedBits i)
  | .nop => Laws.TableBits.nop
  | .gfMul a b => Laws.TableBits.gfMul a b
  | .gfDiv a b => Laws.TableBits.gfDiv a b
  | .gfExp e => Laws.TableBits.gfExp e
  | .gfLog a => Laws.TableBits.gfLog a
  | .rsGen n => Laws.TableBits.rsGen n
  | .rsEnc k => Laws.TableBits.rsEnc k
  | .rsAll => Laws.TableBits.rsAll
  | .ilv => Laws.TableBits.ilv
  | .gridInit => Laws.TableBits.gridInit
  | .gridWr x y d f => Laws.TableBits.gridWr x y d f
  | .gridRd x y => Laws.TableBits.gridRd x y
  | .gridRsv x y => Laws.TableBits.gridRsv x y
  | .place => Laws.TableBits.place
  | .maskScore m => Laws.TableBits.maskScore m
  | .maskApply m => Laws.TableBits.maskApply m
  | .maskAuto => Laws.TableBits.maskAuto
  | .fmtEnc m => Laws.TableBits.fmtEnc m
  | .fmtWr => Laws.TableBits.fmtWr
  | .vinfoWr => Laws.TableBits.vinfoWr
  | .run => Laws.TableBits.run

theorem formatB_low (opc : Nat) {v : Nat} (hv : v < 256) : field (Encode.formatB opc v) 0 8 = v := by
  rw [field_eq, Encode.formatB, BitVec.toNat_ofNat]
  omega

theorem formatXY_fields (opc : Nat) {x y : Nat} (hx : x < 256) (hy : y < 256) :
    field (Encode.formatXY opc x y) 0 8 = x ∧ field (Encode.formatXY opc x y) 8 8 = y := by
  rw [field_eq, field_eq, Encode.formatXY, BitVec.toNat_ofNat]
  omega

theorem formatAB_fields (opc : Nat) (a b : Byte) :
    byteField (Encode.formatAB opc a b) 8 = a ∧ byteField (Encode.formatAB opc a b) 0 = b := by
  have ha := a.isLt
  have hb := b.isLt
  constructor <;> apply extractLsb'_eq_of_toNat <;> rw [Encode.formatAB, BitVec.toNat_ofNat] <;> omega

theorem formatXYW_fields (opc : Nat) {x y : Nat} (d f : Bool) (hx : x < 256) (hy : y < 256) :
    field (Encode.formatXYW opc x y d f) 0 8 = x ∧ field (Encode.formatXYW opc x y d f) 8 8 = y ∧
      (Encode.formatXYW opc x y d f).getLsbD 16 = d ∧ (Encode.formatXYW opc x y d f).getLsbD 17 = f := by
  have hd := d.toNat_lt
  have hf := f.toNat_lt
  refine ⟨?_, ?_, getLsbD_eq_of_toNat ?_, getLsbD_eq_of_toNat ?_⟩ <;>
    simp only [field_eq, Encode.formatXYW, BitVec.toNat_ofNat] <;> omega

/-- Every operand is read back from the field it was written to. -/
theorem withOperandsOf_encode {i : Instr} (h : i.WellFormed) : withOperandsOf (encode i) i = i := by
  cases i with
  | nop | rsAll | ilv | gridInit | place | maskAuto | fmtWr | vinfoWr | run => rfl
  | gfMul a b | gfDiv a b =>
    simp only [withOperandsOf, encode, formatAB_fields]
  | gfExp v | rsGen v | rsEnc v | maskScore v | maskApply v | fmtEnc v =>
    simp only [withOperandsOf, encode, formatB_low _ (of_decide_eq_true h)]
  | gfLog a =>
    have ha : byteField (Encode.formatB 0x04 a.toNat) 0 = a := BitVec.eq_of_toNat_eq (formatB_low _ a.isLt)
    simp only [withOperandsOf, encode, ha]
  | gridWr x y d f =>
    obtain ⟨hx, hy⟩ := Bool.and_eq_true_iff.1 h
    simp only [withOperandsOf, encode, formatXYW_fields _ d f (of_decide_eq_true hx) (of_decide_eq_true hy)]
  | gridRd x y | gridRsv x y =>
    obtain ⟨hx, hy⟩ := Bool.and_eq_true_iff.1 h
    simp only [withOperandsOf, encode, formatXY_fields _ (of_decide_eq_true hx) (of_decide_eq_true hy)]

/-- Decoding inverts encoding (30_encoding.md R208, R213). -/
theorem decode_encode {i : Instr} (h : i.WellFormed) : decode (encode i) = .ok i := by
  rw [decode_of_matchesRow (encode_matchesRow i h), withOperandsOf_encode h]

/-- A word with a row's fixed bits is that row's command encoded with the word's own operands: no bit is left over. -/
theorem encode_withOperandsOf {c : Word} {i : Instr} (h : Claims.matchesRow c (fixedBits i)) :
    encode (withOperandsOf c i) = c := by
  unfold Claims.matchesRow at h
  symm
  cases i
  -- The word is the sum of its fixed bits and its operands, each at its place.
  all_goals
    apply eq_ofNat_of_toNat_eq
    simp only [fixedBits, toNat_byteField, field_eq, toNat_getLsbD] at h ⊢
    omega

/-- What a word decodes to is well formed and encodes to that word. -/
theorem encode_of_decode {c : Word} {i : Instr} (h : decode c = .ok i) : i.WellFormed ∧ encode i = c := by
  have hrow := matchesRow_of_decode h
  have hi : i = withOperandsOf c i := Except.ok.inj (h.symm.trans (decode_of_matchesRow hrow))
  rw [hi]
  exact ⟨wellFormed_withOperandsOf c i, encode_withOperandsOf hrow⟩

/-! ### The table of the claims -/

theorem fixedBits_mem (i : Instr) : fixedBits i ∈ Claims.commandRows := by
  cases i <;> simp [fixedBits, Claims.commandRows]

/-- One command of each row, in the order of the table. -/
def rowCommands : List Instr :=
  [.nop, .gfMul 0 0, .gfDiv 0 0, .gfExp 0, .gfLog 0, .rsGen 0, .rsEnc 0, .rsAll, .ilv, .gridInit, .gridWr 0 0 false false,
    .gridRd 0 0, .gridRsv 0 0, .place, .maskScore 0, .maskApply 0, .maskAuto, .fmtEnc 0, .fmtWr, .vinfoWr, .run]

theorem commandRows_eq_map : Claims.commandRows = rowCommands.map fixedBits := rfl

/-- The word decodes exactly when it has the fixed bits of some row (30_encoding.md R209). -/
theorem exists_decode_iff (c : Word) : (∃ i, decode c = .ok i) ↔ ∃ row ∈ Claims.commandRows, Claims.matchesRow c row := by
  constructor
  · rintro ⟨i, h⟩
    exact ⟨fixedBits i, fixedBits_mem i, matchesRow_of_decode h⟩
  · rintro ⟨row, hmem, hrow⟩
    rw [commandRows_eq_map] at hmem
    obtain ⟨i, -, rfl⟩ := List.mem_map.1 hmem
    exact ⟨_, decode_of_matchesRow hrow⟩

/-! ### The engine's turn -/

theorem step_of_engineIsNext {s : State} (h : Claims.engineIsNext s) : step s = engineTurn (Claims.taken s) := by
  rcases h with hnil | ⟨rest, hcons⟩
  · exact step_of_nil hnil
  · exact step_of_engine hcons

/-- A busy engine, out of reset, executes what its word decodes to, or refuses the word. -/
theorem engineTurn_of_busy {s : State} {c : Word} (hr : s.rst = false) (hbusy : s.engine = .busy c) :
    (∀ i, decode c = .ok i → engineTurn s = exec i s) ∧
      ∀ r, decode c = .error r → engineTurn s = .next (complete (some .illegalCmd) s) := by
  rcases engineTurn_cases s with ⟨hr' | hidle, -⟩ | ⟨c', -, hbusy', hturn⟩
  · exact absurd (hr.symm.trans hr') nofun
  · exact absurd (hbusy.symm.trans hidle) nofun
  · obtain rfl : c' = c := Engine.busy.inj (hbusy'.symm.trans hbusy)
    rcases hturn with ⟨i, hd, e⟩ | ⟨r, hd, e⟩
    · exact ⟨fun j h => Except.ok.inj (hd.symm.trans h) ▸ e, fun r h => absurd (hd.symm.trans h) nofun⟩
    · exact ⟨fun i h => absurd (hd.symm.trans h) nofun, fun _ _ => e⟩

end Sys2Proof.Machine

namespace Sys2Proof.Proofs

open Sys2Proof.Machine

/-- Settles O1: the word has its row's fixed bits, so it decodes to the row's command, and each operand is read back. -/
theorem decodeOfEncode : Obligations.DecodeOfEncode := fun _ h => decode_encode h

/-- Settles O2: the decoder's cases are the rows, and a row's command with the word's operands encodes to the word. -/
theorem decodeAcceptsExactlyTheTable : Obligations.DecodeAcceptsExactlyTheTable := fun c =>
  ⟨exists_decode_iff c, fun _ h => encode_of_decode h⟩

/-- Settles O5: no row's fixed bits, no command (O2); and a busy engine completes such a word with ILLEGAL_CMD. -/
theorem illegalWordRaisesIllegalCmd : Obligations.IllegalWordRaisesIllegalCmd := by
  intro s c hr hbusy hnext hno
  rw [step_of_engineIsNext hnext]
  cases hd : decode c with
  | ok i =>
    obtain ⟨row, hmem, hrow⟩ := (exists_decode_iff c).1 ⟨i, hd⟩
    exact absurd hrow (hno row hmem)
  | error r => exact (engineTurn_of_busy (s := Claims.taken s) hr hbusy).2 r hd

/-- Settles O3: the seven words are the encodings of their commands (O1); the other two fail their opcode's check. -/
theorem encodingExamplesDecode : Obligations.EncodingExamplesDecode :=
  ⟨decode_encode (i := .gfMul 0x53 0xCA) rfl, decode_encode (i := .gfDiv 1 0) rfl, decode_encode (i := .rsGen 7) rfl,
    decode_encode (i := .gridWr 8 13 true true) rfl, decode_encode (i := .gridRd 20 0) rfl,
    decode_encode (i := .maskApply 3) rfl, decode_encode (i := .run) rfl, rfl, rfl⟩

/-- Settles O4: on its turn a busy engine executes what its word decodes to. -/
theorem stepRunsDecodedCommand : Obligations.StepRunsDecodedCommand := by
  intro s c i hr hbusy hnext hd
  rw [step_of_engineIsNext hnext]
  exact (engineTurn_of_busy (s := Claims.taken s) hr hbusy).1 i hd

end Sys2Proof.Proofs
end

section
/-! PROOF. The field GF(256): its tables are the powers of α, and its functions the arithmetic of polynomials over GF(2)
modulo x⁸+x⁴+x³+x²+1 (40_gf.md R300 to R313). -/

namespace Sys2Proof.Machine

open Sys2Proof.Claims (timesX polyProduct alphaPower)

/-! ### Multiplication by x is linear (R300) -/

theorem timesX_xor (a b : Byte) : timesX (a ^^^ b) = timesX a ^^^ timesX b := by
  have reduced (v : Byte) : timesX v = v <<< 1 ^^^ if v.getLsbD 7 then 0x1D#8 else 0 := by
    unfold timesX; split <;> simp
  have carry : ∀ p q : Bool,
      (if p ^^ q then 0x1D#8 else 0) = (if p then 0x1D#8 else 0) ^^^ if q then 0x1D#8 else 0 := by decide
  rw [reduced, reduced, reduced, BitVec.shiftLeft_xor_distrib, BitVec.getLsbD_xor, carry]
  ac_rfl

theorem iterate_timesX_xor (i : Nat) (a b : Byte) : timesX^[i] (a ^^^ b) = timesX^[i] a ^^^ timesX^[i] b :=
  Function.Semiconj₂.iterate timesX_xor i a b

/-! ### The product of polynomials, as a function of its first factor -/

/-- The terms a·xⁱ of the product with b at the places `is`, added to `acc`. -/
def addTerms (b : Byte) (is : List Nat) (a acc : Byte) : Byte :=
  is.foldl (fun acc i => if b.getLsbD i then acc ^^^ timesX^[i] a else acc) acc

theorem polyProduct_eq (a b : Byte) : polyProduct a b = addTerms b (List.range 8) a 0 := rfl

theorem addTerms_cons (b : Byte) (i : Nat) (is : List Nat) (a acc : Byte) :
    addTerms b (i :: is) a acc = addTerms b is a (if b.getLsbD i then acc ^^^ timesX^[i] a else acc) := rfl

theorem addTerms_xor (b : Byte) (is : List Nat) (a a' acc acc' : Byte) :
    addTerms b is (a ^^^ a') (acc ^^^ acc') = addTerms b is a acc ^^^ addTerms b is a' acc' := by
  induction is generalizing acc acc' with
  | nil => rfl
  | cons i is ih =>
    simp only [addTerms_cons, ← ih, iterate_timesX_xor]
    cases b.getLsbD i with
    | false => rfl
    | true => congr 1; simp only [if_true]; ac_rfl

theorem addTerms_timesX (b : Byte) (is : List Nat) (a acc : Byte) :
    addTerms b is (timesX a) (timesX acc) = timesX (addTerms b is a acc) := by
  induction is generalizing acc with
  | nil => rfl
  | cons i is ih =>
    rw [addTerms_cons, addTerms_cons, ← ih, ← Function.iterate_succ_apply, Function.iterate_succ_apply', ← timesX_xor,
      apply_ite timesX]

theorem polyProduct_xor (a a' b : Byte) : polyProduct (a ^^^ a') b = polyProduct a b ^^^ polyProduct a' b := by
  simp only [polyProduct_eq]
  exact addTerms_xor b (List.range 8) a a' 0 0

theorem polyProduct_iterate_timesX (i : Nat) (a b : Byte) :
    polyProduct (timesX^[i] a) b = timesX^[i] (polyProduct a b) :=
  Function.Semiconj.iterate_right (f := (polyProduct · b)) (fun a => addTerms_timesX b (List.range 8) a 0) i a

theorem polyProduct_zero_left (b : Byte) : polyProduct 0 b = 0 := by
  simpa using polyProduct_xor 0 0 b

theorem polyProduct_zero_right (a : Byte) : polyProduct a 0 = 0 := rfl

/-- The bits of b, each at its place, are b. -/
theorem polyProduct_one_left : ∀ b : Byte, polyProduct 1 b = b := by decide +kernel

theorem polyProduct_alphaPower_left (n : Nat) (b : Byte) : polyProduct (alphaPower n) b = timesX^[n] b := by
  rw [alphaPower, polyProduct_iterate_timesX, polyProduct_one_left]

/-! ### The tables against their construction (R301) -/

theorem gfExp_succ : ∀ i < 255, gfExp (i + 1) = timesX (gfExp i) := by decide +kernel

theorem gfExp_ne_zero : ∀ i < 255, gfExp i ≠ 0 := by decide +kernel

theorem gfLog_gfExp : ∀ i < 255, gfLog (gfExp i) = i := by decide +kernel

theorem gfLog_lt_and_gfExp_gfLog : ∀ a : Byte, a ≠ 0 → gfLog a < 255 ∧ gfExp (gfLog a) = a := by decide +kernel

/-! ### Powers of α (R301) -/

theorem gfExp_eq_alphaPower {e : Nat} (h : e < 256) : gfExp e = alphaPower e := by
  induction e with
  | zero => rfl
  | succ e ih => rw [gfExp_succ e (by omega), ih (by omega), alphaPower, alphaPower, Function.iterate_succ_apply']

/-- α has period 255, as EXP[255] = EXP[0]. -/
theorem gfExp_mod (n : Nat) : gfExp (n % 255) = alphaPower n := by
  have period : Function.IsPeriodicPt timesX 255 1 := (gfExp_eq_alphaPower (e := 255) (by decide)).symm
  rw [gfExp_eq_alphaPower (by omega), alphaPower, period.iterate_mod_apply, alphaPower]

theorem alphaPower_ne_zero (n : Nat) : alphaPower n ≠ 0 := by
  rw [← gfExp_mod]
  exact gfExp_ne_zero _ (by omega)

theorem gfLog_alphaPower (n : Nat) : gfLog (alphaPower n) = n % 255 := by
  rw [← gfExp_mod, gfLog_gfExp _ (by omega)]

theorem gfLog_lt {a : Byte} (h : a ≠ 0) : gfLog a < 255 := (gfLog_lt_and_gfExp_gfLog a h).1

theorem gfExp_gfLog {a : Byte} (h : a ≠ 0) : gfExp (gfLog a) = a := (gfLog_lt_and_gfExp_gfLog a h).2

theorem alphaPower_gfLog {a : Byte} (h : a ≠ 0) : alphaPower (gfLog a) = a := by
  rw [← gfExp_eq_alphaPower (by have := gfLog_lt h; omega), gfExp_gfLog h]

theorem alphaPower_add (m n : Nat) : alphaPower (m + n) = polyProduct (alphaPower m) (alphaPower n) := by
  rw [polyProduct_alphaPower_left, alphaPower, Function.iterate_add_apply, alphaPower]

/-! ### The field's product (R303, R306) -/

theorem gfMul_zero (a : Byte) : gfMul a 0 = 0 := if_pos (.inr rfl)

theorem zero_gfMul (a : Byte) : gfMul 0 a = 0 := if_pos (.inl rfl)

theorem gfMul_of_ne_zero {a b : Byte} (ha : a ≠ 0) (hb : b ≠ 0) : gfMul a b = alphaPower (gfLog a + gfLog b) := by
  rw [gfMul, if_neg (not_or.2 ⟨ha, hb⟩), gfExp_mod]

theorem gfMul_comm (a b : Byte) : gfMul a b = gfMul b a := by simp only [gfMul, or_comm, Nat.add_comm]

/-- The product by the tables is the product of polynomials: the product of two powers of α adds their exponents. -/
theorem gfMul_eq_polyProduct (a b : Byte) : gfMul a b = polyProduct a b := by
  by_cases ha : a = 0
  · rw [ha, zero_gfMul, polyProduct_zero_left]
  by_cases hb : b = 0
  · rw [hb, gfMul_zero, polyProduct_zero_right]
  rw [gfMul_of_ne_zero ha hb, alphaPower_add, alphaPower_gfLog ha, alphaPower_gfLog hb]

theorem gfMul_one (a : Byte) : gfMul a 1 = a := by
  rw [gfMul_comm, gfMul_eq_polyProduct, polyProduct_one_left]

theorem gfMul_gfAdd (a b c : Byte) : gfMul a (gfAdd b c) = gfAdd (gfMul a b) (gfMul a c) := by
  simp only [gfMul_comm a, gfMul_eq_polyProduct, gfAdd, polyProduct_xor]

/-- A nonzero first factor is a power of α, and multiplying by x commutes with the product by c. -/
theorem gfMul_assoc (a b c : Byte) : gfMul (gfMul a b) c = gfMul a (gfMul b c) := by
  by_cases ha : a = 0
  · rw [ha, zero_gfMul, zero_gfMul, zero_gfMul]
  · rw [← alphaPower_gfLog ha]
    simp only [gfMul_eq_polyProduct, polyProduct_alphaPower_left, polyProduct_iterate_timesX]

theorem gfMul_alphaPower (m n : Nat) : gfMul (alphaPower m) (alphaPower n) = alphaPower (m + n) := by
  rw [gfMul_eq_polyProduct, alphaPower_add]

theorem gfMul_ne_zero {a b : Byte} (ha : a ≠ 0) (hb : b ≠ 0) : gfMul a b ≠ 0 := by
  rw [gfMul_of_ne_zero ha hb]
  exact alphaPower_ne_zero _

/-! ### Division (R304, R306) -/

theorem gfDiv_gfMul (a : Byte) {b : Byte} (hb : b ≠ 0) : gfDiv (gfMul a b) b = a := by
  by_cases ha : a = 0
  · rw [ha, zero_gfMul, gfDiv, if_pos rfl]
  · have hlog : gfLog (gfMul a b) = (gfLog a + gfLog b) % 255 := by rw [gfMul_of_ne_zero ha hb, gfLog_alphaPower]
    have hexp : (gfLog (gfMul a b) + 255 - gfLog b) % 255 = gfLog a := by
      have := gfLog_lt ha
      have := gfLog_lt hb
      omega
    rw [gfDiv, if_neg (gfMul_ne_zero ha hb), hexp, gfExp_gfLog ha]

/-- The exponents of b and of its inverse add up to 255. -/
theorem exists_gfMul_eq_one {b : Byte} (hb : b ≠ 0) : ∃ c, gfMul c b = 1 := by
  refine ⟨alphaPower (255 - gfLog b), ?_⟩
  have hlt := gfLog_lt hb
  have hinv : gfMul (alphaPower (255 - gfLog b)) (alphaPower (gfLog b)) = 1 := by
    rw [gfMul_alphaPower, Nat.sub_add_cancel hlt.le, ← gfExp_mod]; rfl
  rwa [alphaPower_gfLog hb] at hinv

/-- Every a is a product with b, by b's inverse, and division by b gives the other factor. -/
theorem gfMul_gfDiv (a : Byte) {b : Byte} (hb : b ≠ 0) : gfMul (gfDiv a b) b = a := by
  obtain ⟨c, hc⟩ := exists_gfMul_eq_one hb
  have ha : gfMul (gfMul a c) b = a := by rw [gfMul_assoc, hc, gfMul_one]
  calc gfMul (gfDiv a b) b = gfMul (gfDiv (gfMul (gfMul a c) b) b) b := by rw [ha]
    _ = gfMul (gfMul a c) b := by rw [gfDiv_gfMul _ hb]
    _ = a := ha

/-! ### The commands (R310 to R313; 60_exceptions.md R711) -/

theorem exec_gfMul (a b : Byte) (s : State) :
    exec (.gfMul a b) s = .next (Claims.succeeded { s with result := (gfMul a b).setWidth 32 }) := rfl

theorem exec_gfDiv_zero (a : Byte) (s : State) : exec (.gfDiv a 0) s = .next (Claims.failed 2 s) := rfl

theorem exec_gfDiv_of_ne_zero (a : Byte) {b : Byte} (h : b ≠ 0) (s : State) :
    exec (.gfDiv a b) s = .next (Claims.succeeded { s with result := (gfDiv a b).setWidth 32 }) := by
  rw [exec_eq_conclude (i := .gfDiv a b) nofun, effectOf, effGfDiv, if_neg h]; rfl

theorem exec_gfExp (e : Nat) (s : State) :
    exec (.gfExp e) s = .next (Claims.succeeded { s with result := (gfExp e).setWidth 32 }) := rfl

theorem exec_gfLog_zero (s : State) : exec (.gfLog 0) s = .next (Claims.failed 3 s) := rfl

theorem exec_gfLog_of_ne_zero {a : Byte} (h : a ≠ 0) (s : State) :
    exec (.gfLog a) s = .next (Claims.succeeded { s with result := BitVec.ofNat 32 (gfLog a) }) := by
  rw [exec_eq_conclude (i := .gfLog a) nofun, effectOf, effGfLog, if_neg h]; rfl

end Sys2Proof.Machine

namespace Sys2Proof.Proofs

open Sys2Proof.Machine

/-- Settles O15: the tables hold the powers of α, so the product by exponents is the product of polynomials. -/
theorem gfMulIsPolynomialProduct : Obligations.GfMulIsPolynomialProduct := fun a b s => by
  rw [exec_gfMul, gfMul_eq_polyProduct]

/-- Settles O16: the product of polynomials is linear and moves powers of x out; division subtracts exponents. -/
theorem fieldLaws : Obligations.FieldLaws :=
  ⟨gfMul_comm, gfMul_assoc, gfMul_one, gfMul_zero, gfMul_gfAdd, fun a _ hb => ⟨gfMul_gfDiv a hb, gfDiv_gfMul a hb⟩,
    fun _ _ => gfMul_ne_zero⟩

/-- Settles O17: the quotient is the one the tables give, whose product with the divisor is the dividend (O16, O15). -/
theorem gfDivIsInverseOfProduct : Obligations.GfDivIsInverseOfProduct := by
  refine fun a b s => ⟨?_, fun hb => ⟨gfDiv a b, ?_, exec_gfDiv_of_ne_zero a hb s⟩⟩
  · rintro rfl
    exact exec_gfDiv_zero a s
  · rw [← gfMul_eq_polyProduct, gfMul_gfDiv a hb]

/-- Settles O18: EXP[e] is αᵉ up to e = 255, and LOG gives each nonzero element's exponent below 255. -/
theorem gfExpAndLogAreInverse : Obligations.GfExpAndLogAreInverse := by
  refine ⟨fun e s he => by rw [exec_gfExp, gfExp_eq_alphaPower he], fun a s => ⟨?_, fun ha => ?_⟩⟩
  · rintro rfl
    exact exec_gfLog_zero s
  · exact ⟨gfLog a, Nat.le_of_lt_succ (gfLog_lt ha), alphaPower_gfLog ha, exec_gfLog_of_ne_zero ha s⟩

end Sys2Proof.Proofs
end

section
/-! PROOF. The Reed-Solomon generator: its coefficients, its roots, and the commands that build and use it
(41_rs.md R352 to R354, R360 to R362). -/

namespace Sys2Proof.Machine

open Sys2Proof.Claims (evalPoly alphaPower)

/-! ### The sum of two coefficient lists -/

/-- The sum of two polynomials, or of two codeword sequences, of one length. -/
def addLists (p q : List Byte) : List Byte := List.zipWith gfAdd p q

@[simp] theorem length_addLists (p q : List Byte) : (addLists p q).length = min p.length q.length :=
  List.length_zipWith

theorem getD_addLists {p q : List Byte} (h : p.length = q.length) (i : Nat) :
    (addLists p q).getD i 0 = gfAdd (p.getD i 0) (q.getD i 0) := by
  by_cases hi : i < p.length
  · simp [addLists, hi, show i < q.length by omega]
  · simp [addLists, hi, show ¬ i < q.length by omega, gfAdd]

/-- Lists of one length with the same coefficients are equal. -/
theorem ext_getD {p q : List Byte} (h : p.length = q.length) (hk : ∀ k < p.length, p.getD k 0 = q.getD k 0) :
    p = q :=
  List.ext_getElem h fun k hp hq => by
    rw [← List.getD_eq_getElem p 0 hp, ← List.getD_eq_getElem q 0 hq, hk k hp]

theorem getD_append_zero (p : List Byte) (k : Nat) : (p ++ [0]).getD k 0 = p.getD k 0 := by
  by_cases hk : k < p.length
  · rw [List.getD_append _ _ _ _ hk]
  · rw [List.getD_append_right _ _ _ _ (by omega), List.getD_eq_default _ _ (show p.length ≤ k by omega)]
    rw [List.getD_eq_getElem?_getD, List.getElem?_getD_singleton_default_eq]

theorem zero_gfAdd (a : Byte) : gfAdd 0 a = a := BitVec.zero_xor

theorem gfAdd_comm (a b : Byte) : gfAdd a b = gfAdd b a := BitVec.xor_comm a b

theorem gfAdd_self (a : Byte) : gfAdd a a = 0 := BitVec.xor_self

theorem gfMul_gfAdd_right (a b c : Byte) : gfMul (gfAdd a b) c = gfAdd (gfMul a c) (gfMul b c) := by
  simp only [gfMul_comm _ c, gfMul_gfAdd]

/-! ### The value of a polynomial (R352) -/

/-- Horner's scheme from an intermediate value. -/
def hornerFrom (x acc : Byte) (p : List Byte) : Byte := p.foldl (fun acc c => gfAdd (gfMul acc x) c) acc

theorem evalPoly_eq (p : List Byte) (x : Byte) : evalPoly p x = hornerFrom x 0 p := by
  simp only [evalPoly, hornerFrom, gfMul_eq_polyProduct, gfAdd]

theorem hornerFrom_cons (x acc c : Byte) (p : List Byte) :
    hornerFrom x acc (c :: p) = hornerFrom x (gfAdd (gfMul acc x) c) p := rfl

theorem hornerFrom_addLists (x : Byte) {p q : List Byte} (h : p.length = q.length) (a b : Byte) :
    hornerFrom x (gfAdd a b) (addLists p q) = gfAdd (hornerFrom x a p) (hornerFrom x b q) := by
  induction p generalizing q a b with
  | nil => rw [List.length_eq_zero_iff.1 h.symm]; rfl
  | cons c p ih =>
    cases q with
    | nil => cases h
    | cons d q =>
      have hacc : gfAdd (gfMul (gfAdd a b) x) (gfAdd c d) = gfAdd (gfAdd (gfMul a x) c) (gfAdd (gfMul b x) d) := by
        rw [gfMul_gfAdd_right]; unfold gfAdd; ac_rfl
      rw [hornerFrom_cons, hornerFrom_cons, ← ih (Nat.succ.inj h), ← hacc]; rfl

theorem hornerFrom_map_gfMul (x c a : Byte) (p : List Byte) :
    hornerFrom x (gfMul a c) (p.map (gfMul · c)) = gfMul (hornerFrom x a p) c := by
  induction p generalizing a with
  | nil => rfl
  | cons d p ih =>
    rw [List.map_cons, hornerFrom_cons, hornerFrom_cons, ← ih, gfMul_gfAdd_right, gfMul_assoc, gfMul_comm c x,
      ← gfMul_assoc]

theorem evalPoly_addLists {p q : List Byte} (h : p.length = q.length) (x : Byte) :
    evalPoly (addLists p q) x = gfAdd (evalPoly p x) (evalPoly q x) := by
  simp only [evalPoly_eq]
  exact hornerFrom_addLists x h 0 0

theorem evalPoly_map_gfMul (p : List Byte) (c x : Byte) : evalPoly (p.map (gfMul · c)) x = gfMul (evalPoly p x) c := by
  have h := hornerFrom_map_gfMul x c 0 p
  rwa [zero_gfMul, ← evalPoly_eq, ← evalPoly_eq] at h

theorem evalPoly_append_zero (p : List Byte) (x : Byte) : evalPoly (p ++ [0]) x = gfMul (evalPoly p x) x := by
  simp [evalPoly_eq, hornerFrom, gfAdd]

theorem evalPoly_zero_cons (p : List Byte) (x : Byte) : evalPoly (0 :: p) x = evalPoly p x := by
  rw [evalPoly_eq, evalPoly_eq, hornerFrom_cons, zero_gfMul]; rfl

/-! ### The product with a factor x + c (40_gf.md R305, 41_rs.md R352) -/

/-- A sum of zeros. -/
theorem foldl_gfAdd_of_zero {bs : List Byte} (h : ∀ b ∈ bs, b = 0) : bs.foldl gfAdd 0 = 0 := by
  rw [List.eq_replicate_of_mem h]
  induction bs.length with
  | zero => rfl
  | succ n ih => exact ih

/-- The coefficient of x + c at an index. -/
theorem polyCoeff_linear_zero (p : List Byte) (c : Byte) : polyCoeff p [1, c] 0 = p.getD 0 0 :=
  calc polyCoeff p [1, c] 0 = gfAdd 0 (gfMul (p.getD 0 0) 1) := rfl
    _ = p.getD 0 0 := by rw [gfMul_one, zero_gfAdd]

/-- Of the cross terms of a coefficient only the last two meet a coefficient of the factor. -/
theorem polyCoeff_linear_succ (p : List Byte) (c : Byte) (k : Nat) :
    polyCoeff p [1, c] (k + 1) = gfAdd (p.getD (k + 1) 0) (gfMul (p.getD k 0) c) := by
  have hzero : ∀ b ∈ (List.range k).map fun i => gfMul (p.getD i 0) ([1, c].getD (k + 1 - i) 0), b = 0 := by
    intro b hb
    obtain ⟨i, hi, rfl⟩ := List.mem_map.1 hb
    rw [List.mem_range] at hi
    rw [List.getD_eq_default [1, c] 0 (show 2 ≤ k + 1 - i by omega), gfMul_zero]
  rw [polyCoeff, List.range_succ, List.range_succ, List.map_append, List.map_append, List.foldl_append,
    List.foldl_append, foldl_gfAdd_of_zero hzero]
  show gfAdd (gfAdd 0 (gfMul (p.getD k 0) ([1, c].getD (k + 1 - k) 0)))
    (gfMul (p.getD (k + 1) 0) ([1, c].getD (k + 1 - (k + 1)) 0)) = _
  rw [Nat.sub_self, Nat.add_sub_cancel_left, zero_gfAdd, gfAdd_comm]
  exact congrArg (gfAdd · _) (gfMul_one _)

/-- Multiplying by x + c adds the polynomial moved up one degree and the polynomial times c. -/
theorem polyMul_linear (p : List Byte) (c : Byte) :
    polyMul p [1, c] = addLists (p ++ [0]) (0 :: p.map (gfMul · c)) := by
  refine ext_getD (by simp) fun k hk => ?_
  rw [getD_addLists (by simp), getD_append_zero]
  have hcoeff : (polyMul p [1, c]).getD k 0 = polyCoeff p [1, c] k := by
    rw [List.getD_eq_getElem _ _ hk]; simp [polyMul]
  rw [hcoeff]
  cases k with
  | zero => rw [polyCoeff_linear_zero, List.getD_cons_zero, gfAdd_comm, zero_gfAdd]
  | succ k =>
    rw [polyCoeff_linear_succ, List.getD_cons_succ]
    congr 1
    have hmap := List.getD_map (l := p) (d := 0) (n := k) (gfMul · c)
    rw [zero_gfMul] at hmap
    exact hmap.symm

/-- The product with x + c keeps the leading coefficient. -/
theorem getD_zero_polyMul_linear (p : List Byte) (c : Byte) : (polyMul p [1, c]).getD 0 0 = p.getD 0 0 := by
  rw [polyMul_linear, getD_addLists (by simp), getD_append_zero, List.getD_cons_zero, gfAdd_comm, zero_gfAdd]

/-- The value of a product with x + c. -/
theorem evalPoly_polyMul_linear (p : List Byte) (c x : Byte) :
    evalPoly (polyMul p [1, c]) x = gfMul (evalPoly p x) (gfAdd x c) := by
  rw [polyMul_linear, evalPoly_addLists (by simp), evalPoly_append_zero, evalPoly_zero_cons, evalPoly_map_gfMul,
    gfMul_gfAdd]

/-! ### The generator (R352) -/

/-- A root of the polynomial so far, and the root of each further factor, is a root of the product. -/
theorem evalPoly_genFold {is : List Nat} {g : List Byte} {x : Byte} (h : evalPoly g x = 0 ∨ ∃ i ∈ is, x = gfExp i) :
    evalPoly (is.foldl (fun g i => polyMul g [0x01, gfExp i]) g) x = 0 := by
  induction is generalizing g with
  | nil => simpa using h
  | cons i is ih =>
    refine ih ?_
    rw [evalPoly_polyMul_linear]
    rcases h with h | ⟨j, hj, rfl⟩
    · exact .inl (by rw [h, zero_gfMul])
    · rcases List.mem_cons.1 hj with rfl | hj
      · exact .inl (by rw [gfAdd_self, gfMul_zero])
      · exact .inr ⟨j, hj, rfl⟩

theorem getD_zero_genFold (is : List Nat) (g : List Byte) :
    (is.foldl (fun g i => polyMul g [0x01, gfExp i]) g).getD 0 0 = g.getD 0 0 := by
  induction is generalizing g with
  | nil => rfl
  | cons i is ih => rw [List.foldl_cons, ih]; exact getD_zero_polyMul_linear g _

/-- The generator is monic. -/
theorem getD_zero_genPoly (n : Nat) : (genPoly n).getD 0 0 = 1 := getD_zero_genFold _ _

/-- The generator of degree n has the roots α⁰ to αⁿ⁻¹. -/
theorem evalPoly_genPoly {n i : Nat} (hi : i < n) (hn : n ≤ 256) : evalPoly (genPoly n) (alphaPower i) = 0 := by
  rw [← gfExp_eq_alphaPower (by omega)]
  refine evalPoly_genFold ?_
  cases i with
  | zero => exact .inl (by decide)
  | succ i => exact .inr ⟨i + 1, by rw [List.mem_range'_1]; omega, rfl⟩

/-- The slots up to the degree hold the generator's coefficients (R360). -/
theorem take_generatorSlots {n : Nat} (h1 : 1 ≤ n) (h30 : n ≤ 30) :
    (generatorSlots n).toList.take (n + 1) = genPoly n := by
  apply List.ext_getElem
  · rw [length_genPoly h1]; simp; omega
  · intro i hi hi'
    rw [length_genPoly h1] at hi'
    rw [List.getElem_take, Vector.getElem_toList]
    refine (generatorSlots_get n ⟨i, by omega⟩).trans ?_
    rw [if_pos (Nat.le_of_lt_succ hi'), List.getD_eq_getElem]

end Sys2Proof.Machine

namespace Sys2Proof.Proofs

open Sys2Proof.Machine

/-- Settles O19: each factor x + αⁱ adds its root, keeps the earlier ones and the leading coefficient. -/
theorem rsGenBuildsTheGenerator : Obligations.RsGenBuildsTheGenerator := by
  refine fun n s => ⟨fun h => ?_, fun h1 h30 => ⟨generatorSlots n, ?_, ?_, fun i hi => ?_, fun i hi => ?_⟩⟩
  · rw [exec_eq_conclude (i := .rsGen n) nofun, effectOf, effRsGen, if_pos h]; rfl
  · rw [exec_eq_conclude (i := .rsGen n) nofun, effectOf, effRsGen, if_neg (not_or.2 ⟨by omega, Nat.not_lt.2 h30⟩)]; rfl
  · exact (generatorSlots_get n 0).trans (getD_zero_genPoly n)
  · rw [generatorSlots_get, if_neg (Nat.not_le.2 hi)]
  · rw [take_generatorSlots h1 h30, evalPoly_genPoly hi (by omega)]

end Sys2Proof.Proofs
end

section
/-! PROOF. The Reed-Solomon division: it is linear, so a remainder cancels the remainder of its data (41_rs.md R353, R354). -/

namespace Sys2Proof.Machine

/-! ### One step of the division (R353) -/

/-- What the division's step adds to place p when it removes the lead at place i. -/
def removal (g : List Byte) (lead : Byte) (i p : Nat) : Byte := if i ≤ p then gfMul (g.getD (p - i) 0) lead else 0

theorem removal_zero (g : List Byte) (i p : Nat) : removal g 0 i p = 0 := by
  rw [removal, gfMul_zero, ite_self]

theorem removal_gfAdd (g : List Byte) (a b : Byte) (i p : Nat) :
    removal g (gfAdd a b) i p = gfAdd (removal g a i p) (removal g b i p) := by
  unfold removal
  split
  · exact gfMul_gfAdd _ a b
  · rfl

/-- A lead of 0 is no special case: its removal adds 0 everywhere. -/
theorem getD_divStep (g w : List Byte) (i : Nat) {p : Nat} (hp : p < w.length) :
    (divStep g w i).getD p 0 = gfAdd (w.getD p 0) (removal g (w.getD i 0) i p) := by
  unfold divStep
  dsimp only
  split
  next hlead => rw [hlead, removal_zero, gfAdd_comm, zero_gfAdd]
  next =>
    rw [List.getD_eq_getElem _ _ (by simpa using hp), List.getElem_mapIdx, List.getD_eq_getElem w 0 hp, removal]
    split
    next h => rw [if_pos h.1]
    next h =>
      split
      next hi =>
        have hg : g.length ≤ p - i := Nat.not_lt.1 fun hlt => h ⟨hi, hlt⟩
        rw [List.getD_eq_default g 0 hg, zero_gfMul, gfAdd_comm, zero_gfAdd]
      next => rw [gfAdd_comm, zero_gfAdd]

theorem divStep_addLists (g : List Byte) {u v : List Byte} (h : u.length = v.length) (i : Nat) :
    divStep g (addLists u v) i = addLists (divStep g u i) (divStep g v i) := by
  refine ext_getD (by simp) fun p hp => ?_
  have hu : p < u.length := by simpa [h] using hp
  have hd : (divStep g u i).length = (divStep g v i).length := by simpa using h
  rw [getD_divStep g _ i (by simpa [h] using hp), getD_addLists hd, getD_addLists h, getD_addLists h, removal_gfAdd,
    getD_divStep g u i hu, getD_divStep g v i (h ▸ hu)]
  unfold gfAdd
  ac_rfl

/-! ### The division (R353) -/

theorem divide_succ (g w : List Byte) (k : Nat) : divide g w (k + 1) = divStep g (divide g w k) k := by
  simp [divide, List.range_succ]

/-- The division of a sum is the sum of the divisions. -/
theorem divide_addLists (g : List Byte) {u v : List Byte} (h : u.length = v.length) (k : Nat) :
    divide g (addLists u v) k = addLists (divide g u k) (divide g v k) := by
  induction k with
  | zero => rfl
  | succ k ih => rw [divide_succ, divide_succ, divide_succ, ih, divStep_addLists g (by simpa using h)]

/-- With no lead to remove, the division leaves its dividend. -/
theorem divide_of_leading_zeros (g w : List Byte) {k : Nat} (h : ∀ i < k, w.getD i 0 = 0) : divide g w k = w := by
  induction k with
  | zero => rfl
  | succ k ih =>
    rw [divide_succ, ih fun i hi => h i (Nat.lt_succ_of_lt hi)]
    exact if_pos (h k (Nat.lt_succ_self k))

theorem addLists_self (p : List Byte) : addLists p p = List.replicate p.length 0 := by
  refine ext_getD (by simp) fun k hk => ?_
  rw [getD_addLists rfl, gfAdd_self, List.getD_replicate _ (by simpa using hk)]

theorem zeros_addLists (p : List Byte) : addLists (List.replicate p.length 0) p = p := by
  refine ext_getD (by simp) fun k hk => ?_
  rw [getD_addLists (by simp), List.getD_replicate _ (by simpa using hk), zero_gfAdd]

theorem addLists_zeros (p : List Byte) : addLists p (List.replicate p.length 0) = p :=
  (List.zipWith_comm_of_comm gfAdd_comm).trans (zeros_addLists p)

/-- A sequence is the sum of its first part before zeros and its second part after zeros. -/
theorem append_eq_addLists (p q : List Byte) :
    p ++ q = addLists (p ++ List.replicate q.length 0) (List.replicate p.length 0 ++ q) := by
  rw [addLists, List.zipWith_append (by simp), ← addLists, ← addLists, addLists_zeros, zeros_addLists]

theorem divide_zeros_append (g r : List Byte) (k : Nat) :
    divide g (List.replicate k 0 ++ r) k = List.replicate k 0 ++ r :=
  divide_of_leading_zeros g _ fun i hi => by
    rw [List.getD_append _ _ _ _ (by simpa using hi), List.getD_replicate _ hi]

/-- Data before zeros leaves the remainder, and the division does not touch the remainder after zeros (R354). -/
theorem divide_data_append_rsRem (data g : List Byte) :
    (divide g (data ++ rsRem data g) data.length).drop data.length = List.replicate (g.length - 1) 0 :=
  calc (divide g (data ++ rsRem data g) data.length).drop data.length
      = (addLists (divide g (data ++ List.replicate (rsRem data g).length 0) data.length)
          (List.replicate data.length 0 ++ rsRem data g)).drop data.length := by
        rw [append_eq_addLists, divide_addLists g (by simp), divide_zeros_append]
    _ = addLists (rsRem data g) (rsRem data g) := by
        rw [addLists, List.drop_zipWith, List.drop_left' (by simp), length_rsRem, ← rsRem, ← addLists]
    _ = List.replicate (g.length - 1) 0 := by rw [addLists_self, length_rsRem]

end Sys2Proof.Machine

namespace Sys2Proof.Proofs

open Sys2Proof.Machine

/-- Settles O20: by linearity the division of the codeword leaves the remainder twice, which cancels. -/
theorem remainderMakesCodewordDivisible : Obligations.RemainderMakesCodewordDivisible := by
  intro n data h1 _
  rw [divide_data_append_rsRem, length_genPoly h1, Nat.add_sub_cancel]

end Sys2Proof.Proofs
end

section
/-! PROOF. Where RS_ENC and RS_ALL store their codewords (41_rs.md R350, R351, R361, R362). -/

namespace Sys2Proof.Machine

/-! ### Reading stored bytes back -/

/-- Bytes listed in the memory at consecutive addresses are read back. -/
theorem bufBytes_eq_of_lookup {s : State} {buf : Buffer} {off n : Nat} {bytes : List Byte} (hn : bytes.length = n)
    (h : ∀ j (hj : j < bytes.length), s.mem.lookup (buf.base + (off + j)) = some bytes[j]) :
    bufBytes s buf off n = bytes := by
  subst hn
  refine List.ext_getElem (by simp) fun j _ hj => ?_
  simp [bufBytes, bufByte, byteAt, h j hj]

/-! ### RS_ENC (R361) -/

/-- The held generator is the slots up to GEN_DEG. -/
theorem heldGenerator_eq_take {s : State} (h : s.genDeg.toNat ≤ 30) :
    heldGenerator s = s.gen.toList.take (s.genDeg.toNat + 1) := by
  refine List.ext_getElem (by simp; omega) fun i hi hi' => ?_
  rw [length_heldGenerator] at hi
  simp [heldGenerator, show i < 31 by omega]

theorem genDeg_le_of_genInv {s : State} (h : s.GenInv) : s.genDeg.toNat ≤ 30 := by
  rcases h with ⟨h0, -⟩ | ⟨-, h30, -⟩
  · rw [h0]; decide
  · exact h30

theorem effRsEnc_of_noGen {s : State} (h : s.genDeg = 0) (k : Nat) : effRsEnc k s = .error .noGen :=
  if_pos (congrArg BitVec.toNat h)

section
variable {s : State} {k : Nat} (h : s.genDeg ≠ 0)
include h

theorem genDeg_toNat_ne_zero : s.genDeg.toNat ≠ 0 := fun h0 => h (BitVec.eq_of_toNat_eq h0)

theorem effRsEnc_of_badRange (hr : 4096 < s.cfg.rsSrc.toNat + k ∨ 4096 < s.cfg.rsDst.toNat + s.genDeg.toNat) :
    effRsEnc k s = .error .badRange :=
  (if_neg (genDeg_toNat_ne_zero h)).trans (if_pos hr)

theorem effRsEnc_of_fits (hsrc : s.cfg.rsSrc.toNat + k ≤ 4096) (hdst : s.cfg.rsDst.toNat + s.genDeg.toNat ≤ 4096) :
    effRsEnc k s = .ok { s with
      mem := writeBuf s.mem .ebuf s.cfg.rsDst.toNat
        (rsRem (bufBytes s .dbuf s.cfg.rsSrc.toNat k) (heldGenerator s)) } :=
  (if_neg (genDeg_toNat_ne_zero h)).trans (if_neg (not_or.2 ⟨Nat.not_lt.2 hsrc, Nat.not_lt.2 hdst⟩))

end

/-! ### RS_ALL (R362) -/

theorem effRsAll_of_profileOk {s : State} (h : profileOk s.cfg) :
    effRsAll s = .ok (setGenerator s.cfg.necc.toNat { s with mem := encodeBlocks s (genPoly s.cfg.necc.toNat) }) :=
  if_pos h

theorem effRsAll_of_not_profileOk {s : State} (h : ¬ profileOk s.cfg) : effRsAll s = .error .invalidConfig := if_neg h

/-- Each block's data stand after those of the blocks before it (R350). -/
theorem dataOffset_eq_blockStart (c : CfgRegs) (b : Nat) : dataOffset c b = Claims.blockStart c b := by
  rw [dataOffset_eq, Claims.blockStart]
  rcases Nat.lt_trichotomy b c.g0Blocks.toNat with hb | hb | hb
  · rw [if_pos (by omega), if_pos hb]
  · rw [if_pos (by omega), if_neg (by omega), hb, Nat.sub_self, Nat.zero_mul, Nat.add_zero]
  · rw [if_neg (by omega), if_neg (by omega)]

/-- The ECC codewords of one block stand before those of the next. -/
theorem eccOffset_add_necc_le {c : CfgRegs} {b b' : Nat} (h : b < b') :
    eccOffset c b + c.necc.toNat ≤ eccOffset c b' := by
  rw [eccOffset, ← Nat.succ_mul]
  exact Nat.mul_le_mul_right _ h

/-- Each block's codewords stay where they were stored, as later blocks store above them. -/
theorem lookup_encodeFold_block (s : State) {g : List Byte} (hg : g.length - 1 = s.cfg.necc.toNat) (m : Memory)
    {n b j : Nat} (hb : b < n) (hj : j < (rsRem (dataBlock s b) g).length) :
    ((List.range n).foldl (fun m b => writeBuf m .ebuf (eccOffset s.cfg b) (rsRem (dataBlock s b) g)) m).lookup
      (Buffer.ebuf.base + (eccOffset s.cfg b + j)) = some (rsRem (dataBlock s b) g)[j] := by
  induction n with
  | zero => cases hb
  | succ n ih =>
    rw [List.range_succ, List.foldl_append, List.foldl_cons, List.foldl_nil]
    rcases Nat.lt_succ_iff_lt_or_eq.1 hb with hlt | rfl
    · have hnext := eccOffset_add_necc_le (c := s.cfg) hlt
      rw [length_rsRem, hg] at hj
      rw [lookup_writeBuf_outside _ _ _ _ (.inl (by omega)), ih hlt]
    · exact lookup_writeBuf_inside _ _ _ _ hj

/-- RS_ALL leaves the ECC codewords of every block in EBUF, the block's data being those in DBUF (R362). -/
theorem bufBytes_encodeBlocks {s t : State} {g : List Byte} (hg : g.length - 1 = s.cfg.necc.toNat)
    (ht : t.mem = encodeBlocks s g) {b : Nat} (hb : b < totalBlocks s.cfg) :
    bufBytes t .ebuf (eccOffset s.cfg b) s.cfg.necc.toNat = rsRem (dataBlock s b) g :=
  bufBytes_eq_of_lookup (by rw [length_rsRem, hg]) fun j hj => by
    rw [ht]; exact lookup_encodeFold_block s hg s.mem hb hj

/-- RS_ALL stores nowhere else. -/
theorem lookup_encodeBlocks_outside {s : State} {g : List Byte} (hg : g.length - 1 = s.cfg.necc.toNat) {a : Nat}
    (ha : a < 0x2000 ∨ 0x2000 + totalEcc s.cfg ≤ a) : (encodeBlocks s g).lookup a = s.mem.lookup a :=
  lookup_encodeFold s g _ _ a fun b hb => by
    have hend : eccOffset s.cfg b + s.cfg.necc.toNat ≤ totalEcc s.cfg := eccOffset_add_necc_le (List.mem_range.1 hb)
    omega

end Sys2Proof.Machine

namespace Sys2Proof.Proofs

open Sys2Proof.Machine

/-- Settles O21: the checks in their order; then the slots up to GEN_DEG divide, and the remainder is stored once. -/
theorem rsEncWritesTheRemainder : Obligations.RsEncWritesTheRemainder := by
  intro k s
  rw [exec_eq_conclude (i := .rsEnc k) nofun, effectOf]
  refine ⟨fun h => ?_, fun h hr => ?_, fun hinv h hsrc hdst => ?_⟩
  · rw [effRsEnc_of_noGen h]; rfl
  · rw [effRsEnc_of_badRange h hr]; rfl
  · rw [← heldGenerator_eq_take (genDeg_le_of_genInv hinv), effRsEnc_of_fits h hsrc hdst]
    have hlen : (rsRem (bufBytes s .dbuf s.cfg.rsSrc.toNat k) (heldGenerator s)).length = s.genDeg.toNat := by simp
    refine ⟨_, rfl, rfl, hlen, bufBytes_eq_of_lookup hlen fun j hj => lookup_writeBuf_inside _ _ _ _ hj, fun a ha => ?_⟩
    have hbase : Buffer.ebuf.base = 0x2000 := rfl
    exact byteAt_congr (lookup_writeBuf_outside _ _ _ _ (by omega)) rfl

/-- Settles O22: blocks store one above the other in EBUF, each from its data in DBUF, which no block changes. -/
theorem rsAllEncodesEveryBlock : Obligations.RsAllEncodesEveryBlock := by
  intro s
  rw [exec_eq_conclude (i := .rsAll) nofun, effectOf]
  refine ⟨fun h => ?_, fun h => ?_⟩
  · rw [effRsAll_of_not_profileOk h]; rfl
  · have ⟨_, _, _, hnecc, _, _⟩ := h
    have hg : (genPoly s.cfg.necc.toNat).length - 1 = s.cfg.necc.toNat := by
      rw [length_genPoly hnecc, Nat.add_sub_cancel]
    rw [effRsAll_of_profileOk h]
    refine ⟨_, rfl, ?_, generatorSlots_get s.cfg.necc.toNat, fun b hb => ?_, fun a ha => ?_⟩
    · rw [setGenerator, BitVec.ofNat_toNat, BitVec.setWidth_eq]; rfl
    · rw [← dataOffset_eq_blockStart]
      exact bufBytes_encodeBlocks hg rfl hb
    · refine byteAt_congr (lookup_encodeBlocks_outside hg ?_) rfl
      rw [totalEcc]
      omega

end Sys2Proof.Proofs
end

section
/-! PROOF. When RUN succeeds, and what it then leaves (41_rs.md R351, 43_grid.md R441, 44_placement.md R510,
47_control.md R651). -/

namespace Sys2Proof.Machine

/-! ### The chain of stages (47_control.md R651) -/

theorem runFrom_of_ok {stage : State → Except ErrorCode State} {s t : State} (h : stage s = .ok t)
    (rest : List (State → Except ErrorCode State)) (n : Nat) : runFrom (stage :: rest) s n = runFrom rest t (n + 1) := by
  rw [runFrom, h]

theorem runFrom_of_error {stage : State → Except ErrorCode State} {s : State} {e : ErrorCode} (h : stage s = .error e)
    (rest : List (State → Except ErrorCode State)) (n : Nat) : runFrom (stage :: rest) s n = (s, n, some e) := by
  rw [runFrom, h]

theorem exec_run {s u : State} {n : Nat} {e : Option ErrorCode} (h : runFrom runStages s 0 = (u, n, e)) :
    exec .run s = .next (complete e { u with result := BitVec.ofNat 32 n }) := by
  show execRun s = _
  rw [execRun, h]

/-! ### RS_ALL and ILV (41_rs.md R362, 42_interleave.md R410) -/

/-- CW_COUNT holds the number of codewords of a legal profile. -/
theorem toNat_cwCount_of_profileOk {c : CfgRegs} (h : profileOk c) :
    (BitVec.ofNat 13 (totalData c + totalEcc c)).toNat = totalData c + totalEcc c := by
  obtain ⟨-, -, -, -, -, hfit⟩ := h
  change totalData c + totalEcc c ≤ 4096 at hfit
  rw [BitVec.toNat_ofNat, Nat.mod_eq_of_lt (by omega)]

theorem exists_effIlv_of_profileOk {s : State} (h : profileOk s.cfg) :
    ∃ t, effIlv s = .ok t ∧ t.cfg = s.cfg ∧ t.cwCount.toNat = totalData s.cfg + totalEcc s.cfg :=
  ⟨_, if_pos h, rfl, toNat_cwCount_of_profileOk h⟩

/-- With a legal profile the first two stages complete, and leave the configuration and the count of codewords. -/
theorem exists_runFrom_gridInit {s : State} (h : profileOk s.cfg) :
    ∃ u, runFrom runStages s 0 = runFrom [effGridInit, effPlace, stageVersionInfo, effMaskAuto] u 2 ∧
      u.cfg = s.cfg ∧ u.cwCount.toNat = totalData s.cfg + totalEcc s.cfg := by
  obtain ⟨t, ht, hcfg⟩ : ∃ t, effRsAll s = .ok t ∧ t.cfg = s.cfg := ⟨_, effRsAll_of_profileOk h, rfl⟩
  obtain ⟨u, hu, hcfg', hcount⟩ := exists_effIlv_of_profileOk (s := t) (hcfg ▸ h)
  rw [runStages, runFrom_of_ok ht, runFrom_of_ok hu]
  exact ⟨u, rfl, hcfg'.trans hcfg, hcfg ▸ hcount⟩

/-! ### GRID_INIT (43_grid.md R435, R441) -/

/-- The coordinates GRID_INIT reads are those in the slots below ALN_CNT. -/
theorem mem_alnCoords {s : State} {a : Nat} : a ∈ alnCoords s.cfg ↔ Claims.isAlnCoord s a := by
  have hslots : s.cfg.alnCnt.toNat ≤ 7 := Nat.le_of_lt_succ s.cfg.alnCnt.isLt
  rw [alnCoords, List.mem_map, Claims.isAlnCoord]
  simp only [List.mem_take_iff_getElem, Vector.getElem_toList]
  constructor
  · rintro ⟨-, ⟨i, hi, rfl⟩, rfl⟩
    rw [Nat.lt_min] at hi
    exact ⟨⟨i, by omega⟩, hi.1, rfl⟩
  · rintro ⟨i, hi, rfl⟩
    exact ⟨_, ⟨i, by simpa using hi, rfl⟩, rfl⟩

/-- The grid that GRID_INIT builds from the configuration. -/
def configuredGrid (c : CfgRegs) : Grid := freshGrid c.version.toNat c.ctrl.alnMode (alnCoords c)

/-- The effect of GRID_INIT on a legal configuration. -/
def withConfiguredGrid (s : State) : State :=
  { s with
    v := (configuredGrid s.cfg).v
    p := (configuredGrid s.cfg).p
    gridInfo := ⟨BitVec.ofNat 8 (Claims.initSize s), s.cfg.version⟩
    status := { s.status with gv := true, masked := false } }

theorem effGridInit_of_initAccepts {s : State} (h : Claims.initAccepts s) :
    effGridInit s = .ok (withConfiguredGrid s) := by
  obtain ⟨h1, h40, hcoords⟩ := h
  have hversion : ¬ (s.cfg.version.toNat < 1 ∨ 40 < s.cfg.version.toNat) :=
    not_or.2 ⟨Nat.not_lt.2 h1, Nat.not_lt.2 h40⟩
  unfold effGridInit
  dsimp only
  rw [if_neg hversion, if_neg fun hbad => hbad.2 fun a ha => hcoords hbad.1 a (mem_alnCoords.1 ha), BitVec.ofNat_toNat,
    BitVec.setWidth_eq]
  rfl

theorem effGridInit_of_not_initAccepts {s : State} (h : ¬ Claims.initAccepts s) :
    effGridInit s = .error .invalidConfig := by
  unfold effGridInit
  dsimp only
  split
  next => rfl
  next hversion =>
    rw [not_or, Nat.not_lt, Nat.not_lt] at hversion
    refine if_pos (by_contra fun hgood => h ⟨hversion.1, hversion.2, fun h2 a ha => ?_⟩)
    exact not_not.1 (not_and.1 hgood h2) a (mem_alnCoords.2 ha)

theorem after_gridInit_p {s : State} (h : Claims.initAccepts s) :
    (Claims.after .gridInit s).p = (configuredGrid s.cfg).p := by
  rw [Claims.after, exec_eq_conclude (i := .gridInit) nofun, effectOf, effGridInit_of_initAccepts h]
  rfl

/-! ### PLACE and the stages after it (44_placement.md R510, 46_format.md R612, 45_mask.md R543) -/

/-- `t` has the flags, the grid's geometry and protection, and the codeword count of `s`. -/
def SameSymbol (s t : State) : Prop :=
  t.status = s.status ∧ t.gridInfo = s.gridInfo ∧ t.p = s.p ∧ t.cwCount = s.cwCount

section
variable {s : State} (hgv : s.status.gv = true)
include hgv

/-- On a grid the version stage raises no error and writes at most plane V. -/
theorem exists_stageVersionInfo : ∃ t, stageVersionInfo s = .ok t ∧ SameSymbol s t := by
  unfold stageVersionInfo
  split
  next h7 =>
    rw [effVinfoWr, withGrid_of_gv hgv]
    exact ⟨_, if_neg (Nat.not_lt.2 h7), rfl, rfl, rfl, rfl⟩
  next => exact ⟨s, rfl, rfl, rfl, rfl, rfl⟩

variable (hunmasked : s.status.masked = false)
include hunmasked

theorem exists_effMaskAuto :
    ∃ t, effMaskAuto s = .ok t ∧ t.status.masked = true ∧ t.gridInfo = s.gridInfo ∧ t.p = s.p ∧ t.cwCount = s.cwCount := by
  rw [effMaskAuto, withGrid_of_gv hgv, withUnmasked_of_unmasked hunmasked]
  exact ⟨_, rfl, rfl, rfl, rfl, rfl⟩

variable (hcount : s.cwCount.toNat ≤ 4096)
include hcount

/-- On a grid not yet masked, with at most a buffer of codewords, PLACE checks only that they fit. -/
theorem effPlace_of_not_fits (hfit : ¬ 8 * s.cwCount.toNat ≤ unprotectedCount s.p (gridSize s)) :
    effPlace s = .error .lenMismatch := by
  rw [effPlace, withGrid_of_gv hgv, withUnmasked_of_unmasked hunmasked]
  exact (if_neg (Nat.not_lt.2 hcount)).trans (if_pos (Nat.not_le.1 hfit))

variable (hfit : 8 * s.cwCount.toNat ≤ unprotectedCount s.p (gridSize s))
include hfit

theorem exists_effPlace_of_fits : ∃ t, effPlace s = .ok t ∧ SameSymbol s t := by
  rw [effPlace, withGrid_of_gv hgv, withUnmasked_of_unmasked hunmasked]
  exact ⟨_, (if_neg (Nat.not_lt.2 hcount)).trans (if_neg (Nat.not_lt.2 hfit)), rfl, rfl, rfl, rfl⟩

/-- Codewords that fit are placed and the grid masked; its geometry and protection stay. -/
theorem exists_runFrom_place_of_fits (n : Nat) :
    ∃ t, runFrom [effPlace, stageVersionInfo, effMaskAuto] s n = (t, n + 3, none) ∧ t.status.masked = true ∧
      t.gridInfo = s.gridInfo ∧ t.p = s.p ∧ t.cwCount = s.cwCount := by
  obtain ⟨t, ht, hstatus, hinfo, hp, hcw⟩ := exists_effPlace_of_fits hgv hunmasked hcount hfit
  obtain ⟨u, hu, hstatus', hinfo', hp', hcw'⟩ := exists_stageVersionInfo (s := t) (hstatus ▸ hgv)
  have husame : u.status = s.status := hstatus'.trans hstatus
  obtain ⟨w, hw, hmasked, hinfo'', hp'', hcw''⟩ := exists_effMaskAuto (s := u) (husame ▸ hgv) (husame ▸ hunmasked)
  rw [runFrom_of_ok ht, runFrom_of_ok hu, runFrom_of_ok hw, runFrom_nil]
  exact ⟨w, rfl, hmasked, hinfo''.trans (hinfo'.trans hinfo), hp''.trans (hp'.trans hp), hcw''.trans (hcw'.trans hcw)⟩

end

/-! ### RUN up to PLACE -/

/-- The state in which RUN reaches PLACE: all codewords counted, and the configured grid, not masked yet. -/
structure ReadyToPlace (s u : State) : Prop where
  gv : u.status.gv = true
  unmasked : u.status.masked = false
  size : gridSize u = Claims.initSize s
  gver : u.gridInfo.gver = s.cfg.version
  p : u.p = (configuredGrid s.cfg).p
  cwCount : u.cwCount.toNat = totalData s.cfg + totalEcc s.cfg

theorem gridSize_withConfiguredGrid {s : State} (h : Claims.initAccepts s) :
    gridSize (withConfiguredGrid s) = Claims.initSize s := by
  obtain ⟨-, h40, -⟩ := h
  show (BitVec.ofNat 8 (Claims.initSize s)).toNat = _
  rw [BitVec.toNat_ofNat, Nat.mod_eq_of_lt (by rw [Claims.initSize]; omega)]

/-- Whether GRID_INIT accepts depends on the configuration registers alone. -/
theorem initAccepts_congr {s u : State} (h : u.cfg = s.cfg) : Claims.initAccepts u ↔ Claims.initAccepts s := by
  simp only [Claims.initAccepts, Claims.initSize, Claims.initVersion, Claims.isAlnCoord, h]

theorem readyToPlace_withConfiguredGrid {s u : State} (hinit : Claims.initAccepts s) (hcfg : u.cfg = s.cfg)
    (hcount : u.cwCount.toNat = totalData s.cfg + totalEcc s.cfg) : ReadyToPlace s (withConfiguredGrid u) where
  gv := rfl
  unmasked := rfl
  size := by
    rw [gridSize_withConfiguredGrid ((initAccepts_congr hcfg).2 hinit), Claims.initSize, Claims.initSize,
      Claims.initVersion, Claims.initVersion, hcfg]
  gver := congrArg CfgRegs.version hcfg
  p := congrArg (fun c => (configuredGrid c).p) hcfg
  cwCount := hcount

/-! ### RUN (47_control.md R651) -/

/-- When a stage raises an error, so does RUN: success then comes only with a condition `P` that fails. -/
theorem run_fails {s u : State} {n : Nat} {e : ErrorCode} {P : Prop} {Q : State → Prop}
    (h : runFrom runStages s 0 = (u, n, some e)) (hP : ¬ P) :
    ∃ t, exec .run s = .next t ∧ (t.status.err = false ↔ P) ∧ (t.status.err = false → Q t) :=
  ⟨_, exec_run h, ⟨nofun, fun hp => absurd hp hP⟩, nofun⟩

end Sys2Proof.Machine

namespace Sys2Proof.Proofs

open Sys2Proof.Machine

/-- Settles O46: each condition is what one stage checks, the profile RS_ALL, the configuration GRID_INIT, the length
PLACE; the other stages raise no error after these. -/
theorem runSucceedsExactlyWhenConfigured : Obligations.RunSucceedsExactlyWhenConfigured := by
  intro s
  by_cases hprofile : profileOk s.cfg
  case neg =>
    exact run_fails (runFrom_of_error (effRsAll_of_not_profileOk hprofile) _ _) fun h => hprofile h.1
  obtain ⟨u, hrun, hcfg, hcount⟩ := exists_runFrom_gridInit hprofile
  by_cases hinit : Claims.initAccepts s
  case neg =>
    have herr := effGridInit_of_not_initAccepts (mt (initAccepts_congr hcfg).1 hinit)
    exact run_fails (hrun.trans (runFrom_of_error herr _ _)) fun h => hinit h.2.1
  rw [runFrom_of_ok (effGridInit_of_initAccepts ((initAccepts_congr hcfg).2 hinit))] at hrun
  obtain ⟨hgv, hunmasked, hsize, hgver, hp, hcount'⟩ := readyToPlace_withConfiguredGrid hinit hcfg hcount
  have hbuf : (withConfiguredGrid u).cwCount.toNat ≤ 4096 := by
    have ⟨_, _, _, _, _, hle⟩ := hprofile
    rw [hcount']
    exact hle
  rw [after_gridInit_p hinit, ← hp, ← hsize, ← hcount']
  by_cases hfit : 8 * (withConfiguredGrid u).cwCount.toNat ≤
      unprotectedCount (withConfiguredGrid u).p (gridSize (withConfiguredGrid u))
  case neg =>
    have herr := effPlace_of_not_fits hgv hunmasked hbuf hfit
    exact run_fails (hrun.trans (runFrom_of_error herr _ _)) fun h => hfit h.2.2
  obtain ⟨t, ht, hmasked, hinfo, hp', hcw⟩ := exists_runFrom_place_of_fits hgv hunmasked hbuf hfit 3
  exact ⟨_, exec_run (hrun.trans ht), ⟨fun _ => ⟨hprofile, hinit, hfit⟩, fun _ => rfl⟩,
    fun _ => ⟨hmasked, rfl, (congrArg GridInfo.gver hinfo).trans hgver, hp', congrArg BitVec.toNat hcw⟩⟩

end Sys2Proof.Proofs
end

section
/-! PROOF. ILV: where each codeword stands in the interleaved sequence, and what the command stores (42_interleave.md R400,
R410). -/

namespace Sys2Proof.Machine

/-! ### Entries of lists built over a range -/

/-- A list keeps the entries of what it begins with. -/
theorem getElem?_eq_some_of_prefix {α : Type} {l l' : List α} (h : l <+: l') {k : Nat} {a : α} (ha : l[k]? = some a) :
    l'[k]? = some a := by
  obtain ⟨hk, rfl⟩ := List.getElem?_eq_some_iff.1 ha
  exact List.prefix_iff_getElem?.1 h k hk

theorem range_succ_prefix_range {i n : Nat} (h : i < n) : List.range (i + 1) <+: List.range n := by
  rw [List.prefix_iff_eq_take, List.length_range, List.take_range, Nat.min_eq_left h]

/-- In a concatenation of rounds, entry j of round i stands after all the rounds before it. -/
theorem getElem?_flatMap_range {α : Type} {f : Nat → List α} {i n j : Nat} {a : α} (hi : i < n)
    (ha : (f i)[j]? = some a) :
    ((List.range n).flatMap f)[((List.range i).map fun i' => (f i').length).sum + j]? = some a := by
  refine getElem?_eq_some_of_prefix ((range_succ_prefix_range hi).flatMap f) ?_
  rw [List.range_succ, List.flatMap_append, List.flatMap_singleton, ← List.length_flatMap,
    List.getElem?_append_right (Nat.le_add_right ..), Nat.add_sub_cancel_left, ha]

/-- A number that is kept stands after the smaller ones that are kept. -/
theorem getElem?_filter_range {p : Nat → Bool} {b n : Nat} (hb : b < n) (hp : p b = true) :
    ((List.range n).filter p)[((List.range b).filter p).length]? = some b := by
  refine getElem?_eq_some_of_prefix ((range_succ_prefix_range hb).filter p) ?_
  rw [List.range_succ, List.filter_append, List.filter_cons_of_pos hp, List.filter_nil, List.getElem?_concat_length]

/-! ### The rounds (R400) -/

theorem length_dataRound (s : State) (i : Nat) :
    (dataRound s i).length = Claims.blocksWithCodeword s.cfg i (totalBlocks s.cfg) :=
  List.length_map _

@[simp] theorem length_eccRound (s : State) (i : Nat) : (eccRound s i).length = totalBlocks s.cfg := by
  simp [eccRound]

/-- In a data round, block b's codeword stands after those of the earlier blocks that take part. -/
theorem getElem?_dataRound (s : State) {i b : Nat} (hb : b < totalBlocks s.cfg) (hi : i < blockLen s.cfg b) :
    (dataRound s i)[Claims.blocksWithCodeword s.cfg i b]? = some (bufByte s .dbuf (dataOffset s.cfg b + i)) := by
  rw [dataRound, Claims.blocksWithCodeword, List.getElem?_map, getElem?_filter_range hb (decide_eq_true hi),
    Option.map_some]

theorem getElem?_eccRound (s : State) (i : Nat) {b : Nat} (hb : b < totalBlocks s.cfg) :
    (eccRound s i)[b]? = some (bufByte s .ebuf (eccOffset s.cfg b + i)) := by
  rw [eccRound, List.getElem?_map, List.getElem?_range hb, Option.map_some]

/-- The ECC rounds hold TE codewords and the whole sequence TD + TE, so the data rounds hold TD. -/
theorem length_dataRounds (s : State) :
    ((List.range (maxBlockLen s.cfg)).flatMap (dataRound s)).length = totalData s.cfg := by
  have hecc : ((List.range s.cfg.necc.toNat).flatMap (eccRound s)).length = totalEcc s.cfg := by
    simp [List.length_flatMap, totalEcc, Nat.mul_comm]
  have hall := length_interleaved s
  rw [interleaved, List.length_append, hecc] at hall
  exact Nat.add_right_cancel hall

/-! ### The sequence (R400) -/

theorem getElem?_interleaved_dataPlace (s : State) {b i : Nat} (hb : b < totalBlocks s.cfg) (hi : i < blockLen s.cfg b) :
    (interleaved s)[Claims.dataPlace s.cfg i b]? = some (bufByte s .dbuf (dataOffset s.cfg b + i)) := by
  have hround : i < maxBlockLen s.cfg := Nat.lt_of_lt_of_le hi (blockLen_le_maxBlockLen hb)
  have hplace := getElem?_flatMap_range hround (getElem?_dataRound s hb hi)
  simp only [length_dataRound] at hplace
  exact getElem?_eq_some_of_prefix (List.prefix_append ..) hplace

theorem getElem?_interleaved_ecc (s : State) {b i : Nat} (hb : b < totalBlocks s.cfg) (hi : i < s.cfg.necc.toNat) :
    (interleaved s)[totalData s.cfg + i * totalBlocks s.cfg + b]? =
      some (bufByte s .ebuf (eccOffset s.cfg b + i)) := by
  have hplace := getElem?_flatMap_range hi (getElem?_eccRound s i hb)
  simp only [length_eccRound, List.map_const', List.length_range, List.sum_replicate, smul_eq_mul] at hplace
  rw [interleaved, ← length_dataRounds, Nat.add_assoc, List.getElem?_append_right (Nat.le_add_right ..),
    Nat.add_sub_cancel_left, hplace]

/-! ### The command (R410) -/

theorem effIlv_of_profileOk {s : State} (h : profileOk s.cfg) :
    effIlv s = .ok { s with
      mem := writeBuf s.mem .ibuf 0 (interleaved s)
      cwCount := BitVec.ofNat 13 (totalData s.cfg + totalEcc s.cfg) } :=
  if_pos h

theorem effIlv_of_not_profileOk {s : State} (h : ¬ profileOk s.cfg) : effIlv s = .error .invalidConfig := if_neg h

end Sys2Proof.Machine

namespace Sys2Proof.Proofs

open Sys2Proof.Machine

/-- Settles O24: the place of a codeword is the length of the earlier rounds, then its place within its round. -/
theorem interleavingPlaces : Obligations.InterleavingPlaces := by
  refine fun s => ⟨length_interleaved s, fun b i hb hi => ?_, fun b i hb hi => getElem?_interleaved_ecc s hb hi⟩
  rw [← dataOffset_eq_blockStart]
  exact getElem?_interleaved_dataPlace s hb hi

/-- Settles O23: the sequence is stored at the start of IBUF and nowhere else; a legal profile's count fits CW_COUNT. -/
theorem ilvWritesTheSequence : Obligations.IlvWritesTheSequence := by
  intro s
  rw [exec_eq_conclude (i := .ilv) nofun, effectOf]
  refine ⟨fun h => ?_, fun h => ?_⟩
  · rw [effIlv_of_not_profileOk h]; rfl
  · rw [effIlv_of_profileOk h]
    refine ⟨_, rfl, rfl, toNat_cwCount_of_profileOk h, ?_, fun a ha => ?_⟩
    · exact bufBytes_eq_of_lookup (length_interleaved s) fun j hj => lookup_writeBuf_inside _ _ _ _ hj
    · have hbase : Buffer.ibuf.base = 0x3000 := rfl
      refine byteAt_congr (lookup_writeBuf_outside _ _ _ _ ?_) rfl
      rw [length_interleaved]
      omega

end Sys2Proof.Proofs
end

section
/-! PROOF. GRID_INIT accepts or refuses, and the commands on one cell: GRID_WR, GRID_RD and GRID_RSV (43_grid.md R440 to
R444). -/

namespace Sys2Proof.Machine

/-! ### GRID_INIT (R441) -/

theorem exec_gridInit_of_initAccepts {s : State} (h : Claims.initAccepts s) :
    exec .gridInit s = .next (Claims.succeeded (withConfiguredGrid s)) := by
  rw [exec_eq_conclude (i := .gridInit) nofun, effectOf, effGridInit_of_initAccepts h]; rfl

theorem exec_gridInit_of_not_initAccepts {s : State} (h : ¬ Claims.initAccepts s) :
    exec .gridInit s = .next (Claims.failed 4 s) := by
  rw [exec_eq_conclude (i := .gridInit) nofun, effectOf, effGridInit_of_not_initAccepts h]; rfl

theorem alnCoordsOk_of_initAccepts {s : State} (h : Claims.initAccepts s) (h2 : 2 ≤ Claims.initVersion s) :
    alnCoordsOk (Claims.initSize s) (alnCoords s.cfg) :=
  have ⟨_, _, hcoords⟩ := h
  fun a ha => hcoords h2 a (mem_alnCoords.1 ha)

/-! ### The check of the cell commands (R442 to R444) -/

section
variable {s : State} {x y : Nat} (r : Except ErrorCode State)

theorem withCell_of_not_gv (h : s.status.gv = false) : withCell s x y r = .error .noGrid :=
  withGrid_of_not_gv h _

theorem withCell_of_outside (hg : s.status.gv = true) (h : gridSize s ≤ x ∨ gridSize s ≤ y) :
    withCell s x y r = .error .badCoord := by
  rw [withCell, withGrid_of_gv hg, if_pos h]

end

/-- A grid that meets the invariant fits the planes. -/
theorem gridSize_le_gridDim {s : State} (h : s.GridInv) (hg : s.status.gv = true) : gridSize s ≤ Config.gridDim := by
  obtain ⟨-, h40, hsize, -⟩ := h.2 hg
  show gridSize s ≤ 177
  omega

/-- A write inside the plane sets that one cell. -/
theorem get_set_of_inside (p : Plane) {x y : Nat} (b : Bool) (hx : x < Config.gridDim) (hy : y < Config.gridDim)
    (i j : Nat) : (p.set x y b).get i j = if i = x ∧ j = y then b else p.get i j := by
  simp only [get_set, hx, hy, and_true]

/-- The two bits of GRID_RD's answer, as a number (R443). -/
theorem toResult_append_ofBool (a b : Bool) :
    toResult (BitVec.ofBool a ++ BitVec.ofBool b) = BitVec.ofNat 32 (2 * a.toNat + b.toNat) := by
  cases a <;> cases b <;> decide

end Sys2Proof.Machine

namespace Sys2Proof.Proofs

open Sys2Proof.Machine

/-- Settles O25: the check of the configuration is the model's; the built grid stays inside its size and protects its
function patterns. -/
theorem gridInitBuildsGuardedGrid : Obligations.GridInitBuildsGuardedGrid := by
  refine fun s => ⟨exec_gridInit_of_not_initAccepts, fun h => ⟨_, exec_gridInit_of_initAccepts h, rfl, ?_, ?_, ?_⟩⟩
  · exact gridSize_withConfiguredGrid h
  · exact freshGrid_inside fun h2 => alnCoordsOk_of_initAccepts h h2
  · obtain ⟨h1, h40, -⟩ := h
    exact fun _ _ => freshGrid_p_of_functionCell _ _ h1 h40

/-- Settles O29: the checks in their order; then the guarded write refuses, or sets the one cell. -/
theorem gridWrIsGuarded : Obligations.GridWrIsGuarded := by
  intro x y d f s hinv
  rw [exec_eq_conclude (i := .gridWr x y d f) nofun, effectOf, effGridWr]
  refine ⟨fun hg => ?_, fun hg hxy => ?_, fun hg hx hy hp hf => ?_, fun hg hx hy hpf => ?_⟩
  · rw [withCell_of_not_gv _ hg]; rfl
  · rw [withCell_of_outside _ hg hxy]; rfl
  · have hwrite : gridWrite s.v s.p x y d f = (false, s.v) := by simpa [hp, hf] using gridWrite_cases s.v s.p x y d f
    rw [withCell_of_inside hg hx hy, hwrite]; rfl
  · have hwrite : gridWrite s.v s.p x y d f = (true, s.v.set x y d) :=
      (gridWrite_cases s.v s.p x y d f).elim (fun ⟨hp, hf, _⟩ => by simp [hp, hf] at hpf) And.right
    rw [withCell_of_inside hg hx hy, hwrite]
    have hdim := gridSize_le_gridDim hinv hg
    exact ⟨_, rfl, rfl, get_set_of_inside s.v d (by omega) (by omega)⟩

/-- Settles O30: the checks in their order; then the cell's two bits are read, or its protection set. -/
theorem gridRdReadsAndGridRsvProtects : Obligations.GridRdReadsAndGridRsvProtects := by
  intro x y s hinv
  rw [exec_eq_conclude (i := .gridRd x y) nofun, exec_eq_conclude (i := .gridRsv x y) nofun, effectOf, effectOf,
    effGridRd, effGridRsv]
  refine ⟨fun hg => ?_, fun hg hxy => ?_, fun hg hx hy => ?_⟩
  · rw [withCell_of_not_gv _ hg, withCell_of_not_gv _ hg]; exact ⟨rfl, rfl⟩
  · rw [withCell_of_outside _ hg hxy, withCell_of_outside _ hg hxy]; exact ⟨rfl, rfl⟩
  · rw [withCell_of_inside hg hx hy, withCell_of_inside hg hx hy, toResult_append_ofBool]
    have hdim := gridSize_le_gridDim hinv hg
    exact ⟨rfl, _, rfl, rfl, get_set_of_inside s.p true (by omega) (by omega)⟩

end Sys2Proof.Proofs
end

section
/-! PROOF. The patterns of the grid that GRID_INIT builds: which cells are dark and which protected, without alignment
patterns and with those of either skip mode (43_grid.md R431 to R438, R441). -/

namespace Sys2Proof.Machine

/-! ### The base grid: finders, timing lines, dark module (R431 to R433) -/

/-- Writes whose values all follow one rule, and that reach every cell the rule makes dark, leave a blank plane dark exactly
where the rule says. -/
theorem get_setAll_blank {cells : List (Nat × Nat × Bool)} {dark : Nat → Nat → Prop}
    (hvalue : ∀ c ∈ cells, c.2.2 = true ↔ dark c.1 c.2.1) {x y : Nat} (hx : x < Config.gridDim) (hy : y < Config.gridDim)
    (hreach : dark x y → ∃ c ∈ cells, c.1 = x ∧ c.2.1 = y) :
    (Plane.blank.setAll cells).get x y = true ↔ dark x y := by
  by_cases hm : ∃ c ∈ cells, c.1 = x ∧ c.2.1 = y
  · obtain ⟨b, hb⟩ : ∃ b : Bool, b = true ↔ dark x y := by
      obtain ⟨c, hc, rfl, rfl⟩ := hm
      exact ⟨_, hvalue c hc⟩
    rw [get_setAll_of_mem _ _ hx hy hm, hb]
    rintro c hc rfl rfl
    rw [Bool.eq_iff_iff, hvalue c hc, hb]
  · rw [get_setAll_of_not_mem _ _ fun c hc hxy => hm ⟨c, hc, hxy⟩, get_blank]
    exact ⟨nofun, fun hdark => absurd (hreach hdark) hm⟩

theorem abs_sub_eq_dist (a b : Nat) : |(a : Int) - b| = dist a b := by
  rw [Int.abs_eq_natAbs]
  unfold dist
  omega

/-- The finder with top-left cell `f` makes (x, y) dark: inside its 7×7 square, not on the light ring. -/
def DarkInFinder (f : Nat × Nat) (x y : Nat) : Prop :=
  f.1 ≤ x ∧ x ≤ f.1 + 6 ∧ f.2 ≤ y ∧ y ≤ f.2 + 6 ∧ max (dist x (f.1 + 3)) (dist y (f.2 + 3)) ≠ 2

/-- (x, y) lies in the 9×9 square of the finder with top-left cell `f` and its separator. -/
def NearFinder (f : Nat × Nat) (x y : Nat) : Prop := f.1 ≤ x + 1 ∧ x + 1 < f.1 + 9 ∧ f.2 ≤ y + 1 ∧ y + 1 < f.2 + 9

theorem mem_finderCorners {size : Nat} {f : Nat × Nat} :
    f ∈ finderCorners size ↔ f.1 = 0 ∧ f.2 = 0 ∨ f.1 = size - 7 ∧ f.2 = 0 ∨ f.1 = 0 ∧ f.2 = size - 7 := by
  simp [finderCorners, Prod.ext_iff]

theorem finderDark_iff {size x y : Nat} :
    Claims.finderDark size x y ↔ ∃ f ∈ finderCorners size, DarkInFinder f x y := by
  have habs : ∀ a b : Nat, |(a : Int) - b - 3| = dist a (b + 3) := fun a b => by
    rw [← abs_sub_eq_dist, Int.sub_sub]; rfl
  simp only [Claims.finderDark, habs, DarkInFinder]
  norm_cast

/-- A finder's cell lies in the symbol, in its finder's square, with the value at its offset there. -/
theorem finderCell_cases {size : Nat} {c : Nat × Nat × Bool} (h : c ∈ allFinderCells size) :
    ∃ f ∈ finderCorners size, c.1 < size ∧ c.2.1 < size ∧ NearFinder f c.1 c.2.1 ∧
      c.2.2 = finderValue (c.1 + 1 - f.1) (c.2.1 + 1 - f.2) := by
  simp only [allFinderCells, finderCells, List.mem_flatMap, List.mem_filterMap, List.mem_range,
    Option.ite_none_right_eq_some, Option.some.injEq] at h
  obtain ⟨f, hf, j, hj, i, hi, hin, rfl⟩ := h
  refine ⟨f, hf, ?_⟩
  rw [NearFinder, show f.1 + i - 1 + 1 - f.1 = i by omega, show f.2 + j - 1 + 1 - f.2 = j by omega]
  dsimp only
  exact ⟨by omega, by omega, by omega, rfl⟩

theorem finderValue_iff {f : Nat × Nat} {x y : Nat} (h : NearFinder f x y) :
    finderValue (x + 1 - f.1) (y + 1 - f.2) = true ↔ DarkInFinder f x y := by
  obtain ⟨hx, -, hy, -⟩ := h
  have hdx : dist (x + 1 - f.1) 4 = dist x (f.1 + 3) := by unfold dist; omega
  have hdy : dist (y + 1 - f.2) 4 = dist y (f.2 + 3) := by unfold dist; omega
  unfold finderValue DarkInFinder
  rw [hdx, hdy]
  split
  next h => rw [decide_eq_true_iff]; omega
  next h => exact ⟨nofun, fun hdark => absurd hdark (by omega)⟩

section
variable {size x y : Nat} {f : Nat × Nat} (hs : 21 ≤ size) (hf : f ∈ finderCorners size) (hx : x < size) (hy : y < size)
  (h : NearFinder f x y)
include hs hf hx hy h

/-- The finders lie apart: a cell in the square of one is dark by no other, no timing cell and not the dark module. -/
theorem functionDark_iff_darkInFinder : Claims.functionDark size x y ↔ DarkInFinder f x y := by
  rw [mem_finderCorners] at hf
  unfold NearFinder at h
  have hother : ∀ g ∈ finderCorners size, DarkInFinder g x y → g = f := by
    rintro g hg ⟨h1, h2, h3, h4, -⟩
    rw [mem_finderCorners] at hg
    exact Prod.ext (by omega) (by omega)
  have hrest : ¬ (Claims.timingDark size x y ∨ x = 8 ∧ y = size - 8) := by
    rw [Claims.timingDark]
    omega
  rw [Claims.functionDark, or_iff_left hrest, finderDark_iff]
  exact ⟨fun ⟨g, hg, hdark⟩ => hother g hg hdark ▸ hdark, fun hdark => ⟨f, mem_finderCorners.2 hf, hdark⟩⟩

theorem finderRegion_of_nearFinder : Claims.finderRegion size x y := by
  rw [mem_finderCorners] at hf
  unfold NearFinder at h
  unfold Claims.finderRegion
  omega

end

theorem baseGrid_v (size : Nat) :
    (baseGrid size).v = Plane.blank.setAll (allFinderCells size ++ timingCells size ++ darkModule size) := by
  rw [baseGrid, stamp_v, stamp_v, stamp_v, setAll_append, setAll_append]

/-- What the base grid protects: the finder regions, row 6 and column 6, and the dark module. -/
def BaseProtected (size x y : Nat) : Prop :=
  Claims.finderRegion size x y ∨ x = 6 ∨ y = 6 ∨ (x = 8 ∧ y = size - 8)

section
variable {size : Nat} (hs : 21 ≤ size)
include hs

/-- Every cell the base grid writes gets the value of its pattern. -/
theorem functionDark_of_baseCell {c : Nat × Nat × Bool}
    (hc : c ∈ allFinderCells size ++ timingCells size ++ darkModule size) :
    c.2.2 = true ↔ Claims.functionDark size c.1 c.2.1 := by
  rcases List.mem_append.1 hc with hc | hc
  · rcases List.mem_append.1 hc with hc | hc
    · obtain ⟨f, hf, hx, hy, hnear, hvalue⟩ := finderCell_cases hc
      rw [hvalue, finderValue_iff hnear, functionDark_iff_darkInFinder hs hf hx hy hnear]
    · have hfinder : ¬ Claims.finderDark size c.1 c.2.1 := by
        rw [finderDark_iff]
        rintro ⟨f, hf, h1, h2, h3, h4, -⟩
        rw [mem_finderCorners] at hf
        obtain ⟨i, hi, hi', rfl | rfl⟩ := mem_timingCells.1 hc <;> dsimp only at h1 h2 h3 h4 <;> omega
      rw [Claims.functionDark, or_iff_right hfinder, Claims.timingDark]
      obtain ⟨i, hi, hi', rfl | rfl⟩ := mem_timingCells.1 hc <;> simp only [beq_iff_eq, true_and, and_true] <;> omega
  · rw [darkModule, List.mem_singleton] at hc
    subst hc
    exact ⟨fun _ => .inr (.inr ⟨rfl, rfl⟩), fun _ => rfl⟩

/-- Every dark cell of the base grid's patterns is one it writes. -/
theorem exists_baseCell_of_functionDark {x y : Nat} (hx : x < size) (hy : y < size)
    (h : Claims.functionDark size x y) :
    ∃ c ∈ allFinderCells size ++ timingCells size ++ darkModule size, c.1 = x ∧ c.2.1 = y := by
  rcases h with h | h | ⟨rfl, rfl⟩
  · obtain ⟨f, hf, h1, h2, h3, h4, -⟩ := finderDark_iff.1 h
    obtain ⟨c, hc, hxy⟩ := exists_finderCell hf hx hy (by omega) (by omega)
    exact ⟨c, List.mem_append_left _ (List.mem_append_left _ hc), hxy⟩
  · have hc : ∃ c ∈ timingCells size, c.1 = x ∧ c.2.1 = y := by
      rcases h with ⟨rfl, h⟩ | ⟨rfl, h⟩
      · exact ⟨_, mem_timingCells.2 ⟨x, by omega, by omega, .inl rfl⟩, rfl, rfl⟩
      · exact ⟨_, mem_timingCells.2 ⟨y, by omega, by omega, .inr rfl⟩, rfl, rfl⟩
    obtain ⟨c, hc, hxy⟩ := hc
    exact ⟨c, List.mem_append_left _ (List.mem_append_right _ hc), hxy⟩
  · exact ⟨_, List.mem_append_right _ (List.mem_singleton_self _), rfl, rfl⟩

variable (hd : size ≤ Config.gridDim) {x y : Nat} (hx : x < size) (hy : y < size)
include hd hx hy

theorem baseGrid_v_iff : (baseGrid size).v.get x y = true ↔ Claims.functionDark size x y := by
  rw [baseGrid_v]
  exact get_setAll_blank (fun _ => functionDark_of_baseCell hs) (by omega) (by omega)
    (exists_baseCell_of_functionDark hs hx hy)

theorem baseGrid_p_iff : (baseGrid size).p.get x y = true ↔ BaseProtected size x y := by
  constructor
  · simp only [baseGrid, stamp_p, get_blank, Bool.false_eq_true, false_or]
    rintro ((⟨-, -, c, hc, rfl, rfl⟩ | ⟨-, -, c, hc, rfl, rfl⟩) | ⟨-, -, c, hc, rfl, rfl⟩)
    · obtain ⟨f, hf, hx, hy, hnear, -⟩ := finderCell_cases hc
      exact .inl (finderRegion_of_nearFinder hs hf hx hy hnear)
    · obtain ⟨i, -, -, rfl | rfl⟩ := mem_timingCells.1 hc
      · exact .inr (.inr (.inl rfl))
      · exact .inr (.inl rfl)
    · rw [darkModule, List.mem_singleton] at hc
      subst hc
      exact .inr (.inr (.inr ⟨rfl, rfl⟩))
  · rintro (h | h | h | h)
    · exact baseGrid_p_of_region hx hy hd (by omega)
    · exact baseGrid_p_of_timing hx hy hd (.inl h)
    · exact baseGrid_p_of_timing hx hy hd (.inr h)
    · exact baseGrid_p_of_dark hx hy hd h

end

/-! ### Alignment patterns over a grid (R434) -/

theorem inPattern_iff {c : Nat × Nat} {x y : Nat} : Claims.inPattern c x y ↔ dist x c.1 ≤ 2 ∧ dist y c.2 ≤ 2 := by
  rw [Claims.inPattern, abs_sub_eq_dist, abs_sub_eq_dist]
  norm_cast

theorem patternDark_iff {c : Nat × Nat} {x y : Nat} :
    Claims.patternDark c x y ↔ max (dist x c.1) (dist y c.2) ≠ 1 := by
  rw [Claims.patternDark, abs_sub_eq_dist, abs_sub_eq_dist]
  norm_cast

/-- The pattern centred at `c` covers the cell. -/
def covers (x y : Nat) (c : Nat × Nat) : Bool := decide (Claims.inPattern c x y)

theorem covers_iff {x y : Nat} {c : Nat × Nat} : covers x y c = true ↔ Claims.inPattern c x y := decide_eq_true_iff

/-- Inside the symbol, `g` shows the patterns of the placed centres, the last placed first in the list and on top; elsewhere
its cells are dark and protected where `dark` and `prot` say. -/
def ShowsPatterns (size : Nat) (dark prot : Nat → Nat → Prop) (placed : List (Nat × Nat)) (g : Grid) : Prop :=
  ∀ x y, x < size → y < size →
    (∀ c, placed.find? (covers x y) = some c →
      (g.v.get x y = true ↔ Claims.patternDark c x y) ∧ g.p.get x y = true) ∧
    ((∀ c ∈ placed, ¬ Claims.inPattern c x y) → (g.v.get x y = true ↔ dark x y) ∧ (g.p.get x y = true ↔ prot x y))

/-- Some placed pattern covers the cell, and one of them is on top; or none does. -/
theorem find_inPattern_cases (placed : List (Nat × Nat)) (x y : Nat) :
    (∃ c ∈ placed, Claims.inPattern c x y ∧ placed.find? (covers x y) = some c) ∨
      ∀ c ∈ placed, ¬ Claims.inPattern c x y := by
  cases h : placed.find? (covers x y) with
  | none => exact .inr fun c hc => mt covers_iff.2 (List.find?_eq_none.1 h c hc)
  | some c => exact .inl ⟨c, List.mem_of_find?_eq_some h, covers_iff.1 (List.find?_some h), rfl⟩

section
variable {size : Nat} {dark prot : Nat → Nat → Prop} {placed : List (Nat × Nat)} {g : Grid}
  (h : ShowsPatterns size dark prot placed g)
include h

/-- Protected are the cells under a placed pattern, beside those that `prot` names. -/
theorem ShowsPatterns.p_iff {x y : Nat} (hx : x < size) (hy : y < size) :
    g.p.get x y = true ↔ prot x y ∨ ∃ c ∈ placed, Claims.inPattern c x y := by
  obtain ⟨hcovered, hfree⟩ := h x y hx hy
  rcases find_inPattern_cases placed x y with ⟨c, hc, hin, htop⟩ | hnone
  · exact ⟨fun _ => .inr ⟨c, hc, hin⟩, fun _ => (hcovered c htop).2⟩
  · rw [(hfree hnone).2]
    exact ⟨.inl, fun h => h.elim id fun ⟨c, hc, hin⟩ => absurd hin (hnone c hc)⟩

/-- Placing one more pattern, inside the planes. -/
theorem ShowsPatterns.stamp (hd : size ≤ Config.gridDim) {c : Nat × Nat} (hcx : 2 ≤ c.1) (hcy : 2 ≤ c.2) :
    ShowsPatterns size dark prot (c :: placed) (g.stamp (alignmentCells c.1 c.2)) := by
  intro x y hx hy
  obtain ⟨hcovered, hfree⟩ := h x y hx hy
  by_cases hin : Claims.inPattern c x y
  · obtain ⟨hv, hp⟩ :=
      get_stamp_alignment_inside g hcx hcy (by omega) (by omega) (inPattern_iff.1 hin)
    rw [List.find?_cons_of_pos (covers_iff.2 hin), hv, hp, decide_eq_true_iff, ← patternDark_iff]
    refine ⟨?_, fun hnone => absurd hin (hnone c List.mem_cons_self)⟩
    rintro _ ⟨⟩
    exact ⟨Iff.rfl, rfl⟩
  · obtain ⟨hv, hp⟩ := get_stamp_alignment_outside g hcx hcy (mt inPattern_iff.2 hin)
    rw [List.find?_cons_of_neg (mt covers_iff.1 hin), hv, hp]
    exact ⟨hcovered, fun hnone => hfree fun q hq => hnone q (List.mem_cons_of_mem _ hq)⟩

end

/-! ### The skip rules (R435, R436) -/

/-- The placed centres after one more candidate is considered. -/
def placeCentre (s : State) (placed : List (Nat × Nat)) (c : Nat × Nat) : List (Nat × Nat) :=
  if Claims.centreSkipped s placed c then placed else c :: placed

theorem placedCentres_eq (s : State) : Claims.placedCentres s = (Claims.candidateCentres s).foldl (placeCentre s) [] := rfl

/-- The coordinates GRID_INIT reads stand in the slots below ALN_CNT (R435). -/
theorem alnCoords_eq (c : CfgRegs) :
    alnCoords c = (List.range c.alnCnt.toNat).map fun i => (c.aln.toList.getD i 0).toNat := by
  have hslots : c.alnCnt.toNat ≤ 7 := Nat.le_of_lt_succ c.alnCnt.isLt
  refine List.ext_getElem (by simpa [alnCoords] using hslots) fun i hi hi' => ?_
  have hi : i < 7 := by
    rw [List.length_map, List.length_range] at hi'
    omega
  simp [alnCoords, hi]

/-- The candidates are the pairs of the coordinates GRID_INIT reads, in its order. -/
theorem candidateCentres_eq (s : State) : Claims.candidateCentres s = alignmentCentres (alnCoords s.cfg) := by
  simp only [alnCoords_eq, alignmentCentres, List.flatMap_map, List.map_map]
  rfl

theorem mem_candidateCentres {s : State} {c : Nat × Nat} :
    c ∈ Claims.candidateCentres s ↔ Claims.isAlnCoord s c.1 ∧ Claims.isAlnCoord s c.2 := by
  rw [candidateCentres_eq, mem_alignmentCentres, mem_alnCoords, mem_alnCoords]

/-- A centre that is skipped before any pattern is placed is always skipped. -/
theorem centreSkipped_of_nil {s : State} {c : Nat × Nat} (placed : List (Nat × Nat))
    (h : Claims.centreSkipped s [] c) : Claims.centreSkipped s placed c := by
  rcases h with h | ⟨hmode, h | h | h | ⟨q, hq, -⟩⟩
  · exact .inl h
  · exact .inr ⟨hmode, .inl h⟩
  · exact .inr ⟨hmode, .inr (.inl h)⟩
  · exact .inr ⟨hmode, .inr (.inr (.inl h))⟩
  · cases hq

/-- Every placed centre is a candidate that the finder regions, and in ALNMODE 0 the timing lines and the dark module, do not
skip. -/
theorem mem_placeFold {s : State} {c : Nat × Nat} {candidates placed : List (Nat × Nat)}
    (h : c ∈ candidates.foldl (placeCentre s) placed) :
    c ∈ placed ∨ (c ∈ candidates ∧ ¬ Claims.centreSkipped s [] c) := by
  induction candidates generalizing placed with
  | nil => exact .inl h
  | cons d ds ih =>
    rcases ih h with hd | ⟨hd, hskip⟩
    · rw [placeCentre] at hd
      split at hd
      next => exact .inl hd
      next hskip =>
        rcases List.mem_cons.1 hd with rfl | hd
        · refine .inr ⟨List.mem_cons_self, mt ?_ hskip⟩
          rintro (h | ⟨hmode, h | h | h | ⟨q, hq, -⟩⟩)
          · exact .inl h
          · exact .inr ⟨hmode, .inl h⟩
          · exact .inr ⟨hmode, .inr (.inl h)⟩
          · exact .inr ⟨hmode, .inr (.inr (.inl h))⟩
          · cases hq
        · exact .inl hd
    · exact .inr ⟨List.mem_cons_of_mem _ hd, hskip⟩

/-- A centre that is never skipped is placed, and stays so. -/
theorem mem_placeFold_of_not_skipped {s : State} {c : Nat × Nat} (hskip : ∀ placed, ¬ Claims.centreSkipped s placed c)
    {candidates placed : List (Nat × Nat)} (h : c ∈ placed ∨ c ∈ candidates) :
    c ∈ candidates.foldl (placeCentre s) placed := by
  induction candidates generalizing placed with
  | nil => exact h.resolve_right List.not_mem_nil
  | cons d ds ih =>
    rw [List.mem_cons] at h
    refine ih ?_
    rw [placeCentre]
    rcases h with h | rfl | h
    · exact .inl (by split <;> simp [h])
    · exact .inl (by rw [if_neg (hskip placed)]; exact List.mem_cons_self)
    · exact .inr h

theorem placedCentres_eq_nil {s : State} (h : ∀ c ∈ Claims.candidateCentres s, Claims.centreSkipped s [] c) :
    Claims.placedCentres s = [] := by
  refine List.eq_nil_iff_forall_not_mem.2 fun c hc => ?_
  rw [placedCentres_eq] at hc
  rcases mem_placeFold hc with hc | ⟨hc, hskip⟩
  · cases hc
  · exact hskip (h c hc)

/-- In ALNMODE 1 exactly the centres in a finder region are skipped. -/
theorem centreSkipped_iff_of_alnMode {s : State} (h : s.cfg.ctrl.alnMode = true) {placed : List (Nat × Nat)}
    {c : Nat × Nat} : Claims.centreSkipped s placed c ↔ Claims.finderRegion (Claims.initSize s) c.1 c.2 :=
  or_iff_left fun hmode => by simp [h] at hmode

theorem mem_placedCentres_of_alnMode {s : State} (h : s.cfg.ctrl.alnMode = true) {c : Nat × Nat} :
    c ∈ Claims.placedCentres s ↔
      c ∈ Claims.candidateCentres s ∧ ¬ Claims.finderRegion (Claims.initSize s) c.1 c.2 := by
  rw [placedCentres_eq]
  constructor
  · intro hc
    rcases mem_placeFold hc with hc | ⟨hc, hskip⟩
    · cases hc
    · exact ⟨hc, mt (centreSkipped_iff_of_alnMode h).2 hskip⟩
  · rintro ⟨hc, hregion⟩
    exact mem_placeFold_of_not_skipped (fun _ => mt (centreSkipped_iff_of_alnMode h).1 hregion) (.inr hc)

theorem inFinderRegion_iff {size x y : Nat} (hx : x < size) (hy : y < size) :
    inFinderRegion size x y = true ↔ Claims.finderRegion size x y := by
  simp only [inFinderRegion, Claims.finderRegion, Bool.or_eq_true, Bool.and_eq_true, decide_eq_true_iff]
  omega

section
variable {s : State} {dark : Nat → Nat → Prop} {placed : List (Nat × Nat)} {g : Grid}
  (h : ShowsPatterns (Claims.initSize s) dark (BaseProtected (Claims.initSize s)) placed g)
include h

/-- On a grid that shows the placed patterns over the base grid, GRID_INIT skips the centres that R436 says. -/
theorem skipCentre_iff {c : Nat × Nat} (hx : c.1 < Claims.initSize s) (hy : c.2 < Claims.initSize s) :
    skipCentre s.cfg.ctrl.alnMode (Claims.initSize s) g c.1 c.2 = true ↔ Claims.centreSkipped s placed c := by
  unfold skipCentre
  cases hmode : s.cfg.ctrl.alnMode with
  | true => exact (inFinderRegion_iff hx hy).trans (centreSkipped_iff_of_alnMode hmode).symm
  | false =>
    rw [if_neg Bool.false_ne_true, h.p_iff hx hy, BaseProtected, Claims.centreSkipped]
    simp only [hmode, true_and, Prod.ext_iff, or_assoc]

variable (hd : Claims.initSize s ≤ Config.gridDim)
include hd

theorem ShowsPatterns.alignFold {candidates : List (Nat × Nat)}
    (hc : ∀ c ∈ candidates, (2 ≤ c.1 ∧ c.1 < Claims.initSize s) ∧ 2 ≤ c.2 ∧ c.2 < Claims.initSize s) :
    ShowsPatterns (Claims.initSize s) dark (BaseProtected (Claims.initSize s)) (candidates.foldl (placeCentre s) placed)
      (candidates.foldl (alignAt s.cfg.ctrl.alnMode (Claims.initSize s)) g) := by
  induction candidates generalizing placed g with
  | nil => exact h
  | cons c cs ih =>
    obtain ⟨⟨hx, hx'⟩, hy, hy'⟩ := hc c List.mem_cons_self
    refine ih ?_ fun d hd => hc d (List.mem_cons_of_mem _ hd)
    have hskip := skipCentre_iff h hx' hy'
    rw [placeCentre, alignAt]
    split
    next hs => rwa [if_pos (hskip.2 hs)]
    next hs => rw [if_neg (mt hskip.1 hs)]; exact h.stamp hd hx hy

end

/-! ### The reservations (R437, R438) -/

theorem freshGrid_v (v : Nat) (alnMode : Bool) (coords : List Nat) :
    (freshGrid v alnMode coords).v = (alignedGrid v alnMode coords).v := by
  rw [freshGrid_eq]
  split <;> rfl

theorem freshGrid_p_iff {v : Nat} {alnMode : Bool} {coords : List Nat} {x y : Nat} :
    (freshGrid v alnMode coords).p.get x y = true ↔
      (alignedGrid v alnMode coords).p.get x y = true ∨ x < Config.gridDim ∧ y < Config.gridDim ∧
        ((x, y) ∈ formatReserve (sizeOfVersion v) ∨ 7 ≤ v ∧ (x, y) ∈ versionReserve (sizeOfVersion v)) := by
  rw [freshGrid_eq]
  split
  next h7 => simp only [reserve_p, h7, true_and, and_or_left, or_assoc]
  next h7 => simp only [reserve_p, h7, false_and, or_false]

theorem mem_versionReserve_iff_block {size x y : Nat} (hs : 21 ≤ size) :
    (x, y) ∈ versionReserve size ↔
      size - 11 ≤ x ∧ x ≤ size - 9 ∧ y ≤ 5 ∨ size - 11 ≤ y ∧ y ≤ size - 9 ∧ x ≤ 5 := by
  refine ⟨fun h => ?_, mem_versionReserve_of_block (by omega)⟩
  simp only [mem_versionReserve, Prod.mk.injEq] at h
  obtain ⟨i, hi, h⟩ := h
  omega

section
variable {size x y : Nat} (hs : 21 ≤ size) (hx : x < size) (hy : y < size)
include hs hx hy

theorem mem_formatReserve_iff_strip :
    (x, y) ∈ formatReserve size ↔ y = 8 ∧ (x ≤ 8 ∨ size - 8 ≤ x) ∨ x = 8 ∧ (y ≤ 8 ∨ size - 7 ≤ y) := by
  refine ⟨fun h => ?_, fun h => mem_formatReserve_of_strip (by omega)⟩
  simp only [mem_formatReserve, Prod.mk.injEq] at h
  rcases h with ⟨i, hi, h⟩ | ⟨i, hi, h⟩ | ⟨i, hi, h⟩ <;> omega

/-- The function patterns are what the base grid protects and the reservations. -/
theorem functionCell_iff (v : Nat) :
    functionCell v size x y ↔
      BaseProtected size x y ∨ (x, y) ∈ formatReserve size ∨ 7 ≤ v ∧ (x, y) ∈ versionReserve size := by
  rw [mem_formatReserve_iff_strip hs hx hy, mem_versionReserve_iff_block hs]
  simp only [functionCell, BaseProtected, Claims.finderRegion, hx, hy, true_and, and_true, and_or_left, or_assoc]
  simp only [or_left_comm (a := x = 6)]

end

/-- The reservations protect the function patterns that the base grid leaves. -/
theorem ShowsPatterns.reserved {v : Nat} (h1 : 1 ≤ v) (h40 : v ≤ 40) {dark : Nat → Nat → Prop} {alnMode : Bool}
    {coords : List Nat} {placed : List (Nat × Nat)}
    (h : ShowsPatterns (sizeOfVersion v) dark (BaseProtected (sizeOfVersion v)) placed (alignedGrid v alnMode coords)) :
    ShowsPatterns (sizeOfVersion v) dark (functionCell v (sizeOfVersion v)) placed (freshGrid v alnMode coords) := by
  intro x y hx hy
  have hsize : 21 ≤ sizeOfVersion v ∧ sizeOfVersion v ≤ 177 := by unfold sizeOfVersion; omega
  have hxy : x < Config.gridDim ∧ y < Config.gridDim := ⟨Nat.lt_of_lt_of_le hx hsize.2, Nat.lt_of_lt_of_le hy hsize.2⟩
  obtain ⟨hcovered, hfree⟩ := h x y hx hy
  rw [freshGrid_v, freshGrid_p_iff, functionCell_iff hsize.1 hx hy]
  refine ⟨fun c hc => (hcovered c hc).imp_right .inl, fun hnone => (hfree hnone).imp_right fun hp => ?_⟩
  rw [hp]
  simp only [hxy, true_and]

/-- GRID_INIT shows the patterns of the centres that R436 places over the function patterns, and none for version 1. -/
theorem configuredGrid_showsPatterns {s : State} (h : Claims.initAccepts s) :
    ShowsPatterns (Claims.initSize s) (Claims.functionDark (Claims.initSize s))
      (functionCell (Claims.initVersion s) (Claims.initSize s))
      (if 2 ≤ Claims.initVersion s then Claims.placedCentres s else []) (configuredGrid s.cfg) := by
  have ⟨h1, h40, _⟩ := h
  have hsize : 21 ≤ Claims.initSize s ∧ Claims.initSize s ≤ 177 := by unfold Claims.initSize; omega
  have hbase : ShowsPatterns (Claims.initSize s) (Claims.functionDark (Claims.initSize s))
      (BaseProtected (Claims.initSize s)) [] (baseGrid (Claims.initSize s)) := fun x y hx hy =>
    ⟨nofun, fun _ => ⟨baseGrid_v_iff hsize.1 hsize.2 hx hy, baseGrid_p_iff hsize.1 hsize.2 hx hy⟩⟩
  refine ShowsPatterns.reserved h1 h40 ?_
  split
  next h2 =>
    rw [placedCentres_eq, candidateCentres_eq, alignedGrid, if_pos h2]
    refine hbase.alignFold hsize.2 fun c hc => ?_
    obtain ⟨hx, hy⟩ := mem_alignmentCentres.1 hc
    have hcoords := alnCoordsOk_of_initAccepts h h2
    have hcx := hcoords _ hx
    have hcy := hcoords _ hy
    omega
  next h2 => rw [alignedGrid, if_neg h2]; exact hbase

/-- With no pattern placed, the grid has exactly the function patterns. -/
theorem plainGrid_of_showsPatterns {version size : Nat} {t : State}
    (h : ShowsPatterns size (Claims.functionDark size) (functionCell version size) [] ⟨t.v, t.p⟩) :
    Claims.PlainGrid version size t := fun x y hx hy =>
  (h x y hx hy).2 nofun

end Sys2Proof.Machine

namespace Sys2Proof.Proofs

open Sys2Proof.Machine

/-- Settles O26: no centre is placed, for version 1 by the version and else for want of a coordinate. -/
theorem gridInitPlainPatterns : Obligations.GridInitPlainPatterns := by
  intro s h hplain
  refine ⟨_, exec_gridInit_of_initAccepts h, plainGrid_of_showsPatterns ?_⟩
  have hplaced : (if 2 ≤ Claims.initVersion s then Claims.placedCentres s else []) = [] := by
    rcases hplain with hv | hcnt
    · rw [if_neg (by omega)]
    · have hnone : Claims.placedCentres s = [] := placedCentres_eq_nil fun c hc => by
        simp [candidateCentres_eq, alnCoords_eq, hcnt, alignmentCentres] at hc
      rw [hnone, ite_self]
  have hgrid := configuredGrid_showsPatterns h
  rw [hplaced] at hgrid
  exact hgrid

/-- Settles O27: the one centre (c, c) is off the finder regions, the timing lines and the dark module, so it is placed. -/
theorem gridInitOneAlignmentPattern : Obligations.GridInitOneAlignmentPattern := by
  intro s c h h2 hcnt hc h8
  have hcandidates : Claims.candidateCentres s = [(c, c)] := by
    simp [Claims.candidateCentres, hcnt, ← hc]
  have hkept : ¬ Claims.centreSkipped s [] (c, c) := by
    have hsize : 21 ≤ Claims.initSize s := by unfold Claims.initSize; omega
    rw [Claims.centreSkipped, Claims.finderRegion]
    simp only [Prod.mk.injEq, List.not_mem_nil, false_and, exists_false, or_false]
    omega
  have hplaced : Claims.placedCentres s = [(c, c)] := by
    rw [placedCentres_eq, hcandidates, List.foldl_cons, List.foldl_nil, placeCentre, if_neg hkept]
  have hgrid := configuredGrid_showsPatterns h
  rw [if_pos h2, hplaced] at hgrid
  refine ⟨_, exec_gridInit_of_initAccepts h, fun x y hx hy => ?_⟩
  obtain ⟨hcovered, hfree⟩ := hgrid x y hx hy
  refine ⟨fun hin => hcovered (c, c) (List.find?_cons_of_pos (covers_iff.2 hin)), fun hin => hfree fun q hq => ?_⟩
  rwa [List.mem_singleton.1 hq]

/-- Settles O28: the grid shows exactly the placed patterns, and the skip rule of either mode says which those are. -/
theorem alignmentSkipRules : Obligations.AlignmentSkipRules := by
  intro s h h2
  have hgrid := configuredGrid_showsPatterns h
  rw [if_pos h2] at hgrid
  have hplain : (∀ cx cy, Claims.isAlnCoord s cx → Claims.isAlnCoord s cy → Claims.centreSkipped s [] (cx, cy)) →
      Claims.PlainGrid (Claims.initVersion s) (Claims.initSize s) (Claims.succeeded (withConfiguredGrid s)) := by
    intro hskip
    rw [placedCentres_eq_nil fun c hc => hskip _ _ (mem_candidateCentres.1 hc).1 (mem_candidateCentres.1 hc).2] at hgrid
    exact plainGrid_of_showsPatterns hgrid
  refine ⟨_, exec_gridInit_of_initAccepts h, hgrid, fun hmode => ⟨fun x y hx hy => ?_, fun hregion => ?_⟩,
    fun hmode hskip => hplain fun cx cy hcx hcy => ?_⟩
  · have hmem : ∀ {cx cy}, (cx, cy) ∈ Claims.placedCentres s ↔ Claims.isAlnCoord s cx ∧ Claims.isAlnCoord s cy ∧
        ¬ Claims.finderRegion (Claims.initSize s) cx cy := by
      intro cx cy
      rw [mem_placedCentres_of_alnMode hmode, mem_candidateCentres, and_assoc]
    refine ⟨(hgrid.p_iff hx hy).trans (or_congr_right ?_), fun hcover => ?_⟩
    · simp only [Prod.exists, hmem, and_assoc]
    · refine ((hgrid x y hx hy).2 ?_).1
      rintro ⟨cx, cy⟩ hc hin
      obtain ⟨hcx, hcy, hregion⟩ := hmem.1 hc
      exact hregion (hcover cx cy hcx hcy hin)
  · exact hplain fun cx cy hcx hcy => .inl (hregion cx cy hcx hcy)
  · rcases hskip cx cy hcx hcy with h | h | h
    · exact .inl h
    · exact .inr ⟨hmode, .inl h⟩
    · exact .inr ⟨hmode, .inr (.inl h)⟩

end Sys2Proof.Proofs
end

section
/-! PROOF. PLACE: the order in which the walk visits the cells, the command's checks, and the bits it writes (44_placement.md
R500 to R511). -/

namespace Sys2Proof.Machine

/-! ### Lists that list a set -/

/-- A list that has the members of a set and is no longer than the set repeats none. -/
theorem nodup_of_mem_iff_of_length_le {α : Type} [DecidableEq α] {l : List α} {cells : Finset α}
    (hmem : ∀ c, c ∈ l ↔ c ∈ cells) (hlen : l.length ≤ cells.card) : l.Nodup := by
  have hset : l.toFinset = cells := Finset.ext fun c => List.mem_toFinset.trans (hmem c)
  have hcard : l.toFinset.card = l.length := le_antisymm l.toFinset_card_le (hset ▸ hlen)
  exact (Multiset.toFinset_card_eq_card_iff_nodup (m := (l : Multiset α))).1 hcard

theorem nodup_squareCells (size : Nat) : (squareCells size).Nodup := by
  refine nodup_of_mem_iff_of_length_le (cells := Finset.range size ×ˢ Finset.range size) (fun c => ?_) ?_
  · rw [mem_squareCells, Finset.mem_product, Finset.mem_range, Finset.mem_range]
  · rw [length_squareCells, Finset.card_product, Finset.card_range]

/-! ### One column pair (R500) -/

/-- The row of step t of a sweep. -/
def sweepRow (size : Nat) (upward : Bool) (t : Nat) : Nat := if upward then size - 1 - t else t

/-- The two cells of step t of a sweep, the right one first. -/
def sweepCells (size right : Nat) (upward : Bool) (t : Nat) : List (Nat × Nat) :=
  [(right, sweepRow size upward t), (right - 1, sweepRow size upward t)]

theorem columnPair_eq_flatMap (size right : Nat) (upward : Bool) :
    columnPair size right upward = (List.range size).flatMap (sweepCells size right upward) := rfl

@[simp] theorem length_sweepCells (size right : Nat) (upward : Bool) (t : Nat) :
    (sweepCells size right upward t).length = 2 := rfl

@[simp] theorem length_columnPair (size right : Nat) (upward : Bool) : (columnPair size right upward).length = 2 * size := by
  simp [columnPair_eq_flatMap, List.length_flatMap, Nat.mul_comm]

theorem getElem?_columnPair {size right t j : Nat} {upward : Bool} {c : Nat × Nat} (ht : t < size)
    (hc : (sweepCells size right upward t)[j]? = some c) : (columnPair size right upward)[2 * t + j]? = some c := by
  simpa [columnPair_eq_flatMap, Nat.mul_comm] using getElem?_flatMap_range ht hc

/-- A sweep, upward or downward, takes every row. -/
theorem exists_sweepRow_eq_iff {size y : Nat} (upward : Bool) :
    (∃ t < size, sweepRow size upward t = y) ↔ y < size := by
  cases upward with
  | false => simp [sweepRow]
  | true =>
    simp only [sweepRow, if_true]
    exact ⟨fun ⟨t, ht, hy⟩ => by omega, fun hy => ⟨size - 1 - y, by omega, by omega⟩⟩

/-- A column pair visits every row of its two columns. -/
theorem mem_columnPair {size right x y : Nat} {upward : Bool} :
    (x, y) ∈ columnPair size right upward ↔ (x = right ∨ x = right - 1) ∧ y < size := by
  rw [← exists_sweepRow_eq_iff upward]
  simp only [columnPair_eq_flatMap, sweepCells, List.mem_flatMap, List.mem_range, List.mem_cons, List.not_mem_nil, or_false,
    Prod.mk.injEq, ← or_and_right, ← exists_and_left]
  simp only [eq_comm (b := y), and_left_comm]

/-! ### The walk as its column pairs (R500) -/

/-- The cells of pair q of the walk. -/
def walkPair (size q : Nat) : List (Nat × Nat) := columnPair size (Claims.pairColumn size q) (q % 2 == 0)

@[simp] theorem length_walkPair (size q : Nat) : (walkPair size q).length = 2 * size := length_columnPair ..

@[simp] theorem zigzagFrom_zero_column (size fuel : Nat) (upward : Bool) : zigzagFrom size fuel 0 upward = [] := by
  cases fuel <;> rfl

/-- The walk's next step: the pair at its column, at 5 when that is 6. -/
theorem zigzagFrom_succ {size right c : Nat} (fuel : Nat) (upward : Bool) (hpos : 1 ≤ right)
    (hc : (if right = 6 then 5 else right) = c) :
    zigzagFrom size (fuel + 1) right upward = columnPair size c upward ++ zigzagFrom size fuel (c - 2) (!upward) := by
  rw [zigzagFrom, if_neg (Nat.not_lt.2 hpos), ← hc]

/-- The next pair stands two columns to the left, column 6 passed over. -/
theorem pairColumn_succ (n k : Nat) :
    (if Claims.pairColumn (2 * n + 1) k - 2 = 6 then 5 else Claims.pairColumn (2 * n + 1) k - 2) =
      Claims.pairColumn (2 * n + 1) (k + 1) := by
  simp only [Claims.pairColumn]
  split_ifs <;> omega

/-- The walk is at column 0 exactly when the n pairs of an odd size are made. -/
theorem column_eq_zero_iff {n k right : Nat}
    (hright : (if right = 6 then 5 else right) = Claims.pairColumn (2 * n + 1) k) : right = 0 ↔ n ≤ k := by
  unfold Claims.pairColumn at hright
  split_ifs at hright <;> omega

/-- With m of the n pairs of an odd size left, the walk makes those m pairs. -/
theorem zigzagFrom_eq_flatMap {n k m right : Nat} (hk : k + m = n) (fuel : Nat)
    (hright : (if right = 6 then 5 else right) = Claims.pairColumn (2 * n + 1) k) :
    zigzagFrom (2 * n + 1) (m + fuel) right (k % 2 == 0) = (List.range' k m).flatMap (walkPair (2 * n + 1)) := by
  induction m generalizing k right with
  | zero =>
    obtain rfl : right = 0 := (column_eq_zero_iff hright).2 hk.ge
    simp
  | succ m ih =>
    have hpos : right ≠ 0 := fun h => absurd ((column_eq_zero_iff hright).1 h) (by omega)
    have hdir : (!(k % 2 == 0)) = ((k + 1) % 2 == 0) := by
      rcases Nat.mod_two_eq_zero_or_one k with h | h <;> simp [h, Nat.add_mod]
    rw [Nat.add_right_comm, zigzagFrom_succ _ _ (Nat.pos_of_ne_zero hpos) hright, hdir, ih (by omega) (pairColumn_succ n k),
      List.range'_succ, List.flatMap_cons, walkPair]

/-- The walk of an odd size is its column pairs, one after the other. -/
theorem zigzag_eq_flatMap {n : Nat} (hn : 4 ≤ n) :
    zigzag (2 * n + 1) = (List.range n).flatMap (walkPair (2 * n + 1)) := by
  have := zigzagFrom_eq_flatMap (Nat.zero_add n) (n + 1) (right := 2 * n)
    (by rw [Claims.pairColumn]; split_ifs <;> omega)
  rwa [← List.range_eq_range', ← Nat.add_assoc, ← Nat.two_mul] at this

section
variable {n : Nat} (hn : 4 ≤ n)
include hn

theorem length_zigzag : (zigzag (2 * n + 1)).length = (2 * n + 1) * (2 * n) := by
  simp only [zigzag_eq_flatMap hn, List.length_flatMap, length_walkPair, List.map_const', List.length_range,
    List.sum_replicate, smul_eq_mul]
  ring

theorem getElem?_zigzag {q t j : Nat} {c : Nat × Nat} (hq : q < n) (ht : t < 2 * n + 1)
    (hc : (sweepCells (2 * n + 1) (Claims.pairColumn (2 * n + 1) q) (q % 2 == 0) t)[j]? = some c) :
    (zigzag (2 * n + 1))[2 * (2 * n + 1) * q + 2 * t + j]? = some c := by
  have := getElem?_flatMap_range (f := walkPair (2 * n + 1)) hq (getElem?_columnPair ht hc)
  simpa [zigzag_eq_flatMap hn, Nat.mul_comm q, Nat.add_assoc] using this

/-- Every column but 6 belongs to a pair: to one of an even right column from 8 on, of an odd one up to 5. -/
theorem exists_pairColumn_iff {x : Nat} :
    (∃ q < n, x = Claims.pairColumn (2 * n + 1) q ∨ x = Claims.pairColumn (2 * n + 1) q - 1) ↔
      x < 2 * n + 1 ∧ x ≠ 6 := by
  unfold Claims.pairColumn
  constructor
  · rintro ⟨q, hq, hx⟩
    split at hx <;> omega
  · rintro ⟨hx, h6⟩
    by_cases h7 : 7 ≤ x
    · exact ⟨n - (x + 1) / 2, by omega, by split <;> omega⟩
    · exact ⟨n - (x / 2 + 1), by omega, by split <;> omega⟩

theorem mem_zigzag {x y : Nat} : (x, y) ∈ zigzag (2 * n + 1) ↔ x < 2 * n + 1 ∧ y < 2 * n + 1 ∧ x ≠ 6 := by
  rw [and_comm (a := y < _), ← and_assoc, ← exists_pairColumn_iff hn, zigzag_eq_flatMap hn]
  simp only [List.mem_flatMap, List.mem_range, walkPair, mem_columnPair, ← exists_and_right, and_assoc]

theorem nodup_zigzag : (zigzag (2 * n + 1)).Nodup := by
  refine nodup_of_mem_iff_of_length_le (cells := (Finset.range (2 * n + 1)).erase 6 ×ˢ Finset.range (2 * n + 1))
    (fun c => ?_) ?_
  · rw [← Prod.mk.eta (p := c), mem_zigzag hn]
    simp only [Finset.mem_product, Finset.mem_erase, Finset.mem_range]
    tauto
  · rw [length_zigzag hn, Finset.card_product, Finset.card_erase_of_mem (Finset.mem_range.2 (by omega))]
    simp only [Finset.card_range, Nat.add_sub_cancel]
    exact (Nat.mul_comm ..).le

end

/-! ### The bits along a walk (R501, R502) -/

/-- Along a walk without repeats the unprotected cells take the bits from i on, in the order of the walk. -/
theorem map_get_placeFold (p : Plane) (bits : Nat → Bool) {walk : List (Nat × Nat)} (v : Plane) (i : Nat)
    (hnodup : walk.Nodup) (hinside : ∀ c ∈ walk, c.1 < Config.gridDim ∧ c.2 < Config.gridDim) :
    (walk.filter fun c => !p.get c.1 c.2).map (fun c => (walk.foldl (placeStep p bits) (v, i)).1.get c.1 c.2) =
      (List.range' i (walk.countP fun c => !p.get c.1 c.2)).map bits := by
  induction walk generalizing v i with
  | nil => rfl
  | cons c cs ih =>
    obtain ⟨hc, hcs⟩ := List.nodup_cons.1 hnodup
    obtain ⟨⟨hx, hy⟩, hinside'⟩ := List.forall_mem_cons.1 hinside
    rw [List.foldl_cons]
    rcases placeStep_cases p v bits i c with ⟨hp, e⟩ | ⟨hp, e⟩ <;> rw [e]
    · simpa [hp] using ih v i hcs hinside'
    · have hhead : (cs.foldl (placeStep p bits) (v.set c.1 c.2 (bits i), i + 1)).1.get c.1 c.2 = bits i := by
        rw [get_placeFold_of_not p bits cs _ _ (.inr hc), get_set_of_inside v _ hx hy, if_pos ⟨rfl, rfl⟩]
      simpa [hp, hhead, List.range'_succ] using ih (v.set c.1 c.2 (bits i)) (i + 1) hcs hinside'

/-! ### The walk of a grid (R500, R502) -/

section
variable {s : State} (hinv : s.GridInv) (hg : s.status.gv = true)
include hinv hg

/-- A grid's size is odd, and large enough for column 6 to be passed over. -/
theorem exists_gridSize_eq : ∃ n, 4 ≤ n ∧ gridSize s = 2 * n + 1 := by
  obtain ⟨-, -, hsize, -⟩ := hinv.2 hg
  exact ⟨2 * s.gridInfo.gver.toNat + 8, by omega, by omega⟩

theorem nodup_zigzag_gridSize : (zigzag (gridSize s)).Nodup := by
  obtain ⟨n, hn, hsize⟩ := exists_gridSize_eq hinv hg
  exact hsize ▸ nodup_zigzag hn

/-- Column 6 is a timing line, so the walk misses no unprotected cell of the symbol. -/
theorem mem_zigzag_of_unprotected {x y : Nat} (hp : s.p.get x y = false) :
    (x, y) ∈ zigzag (gridSize s) ↔ x < gridSize s ∧ y < gridSize s := by
  obtain ⟨n, hn, hsize⟩ := exists_gridSize_eq hinv hg
  obtain ⟨-, -, -, -, hfunction⟩ := hinv.2 hg
  rw [hsize] at hfunction ⊢
  rw [mem_zigzag hn]
  refine ⟨fun ⟨hx, hy, _⟩ => ⟨hx, hy⟩, fun ⟨hx, hy⟩ => ⟨hx, hy, fun h6 => ?_⟩⟩
  have htiming : functionCell s.gridInfo.gver.toNat (2 * n + 1) x y := by unfold functionCell; omega
  exact Bool.false_ne_true (hp.symm.trans (hfunction x y htiming))

/-- The walk has as many unprotected cells as the symbol. -/
theorem countP_zigzag_unprotected :
    (zigzag (gridSize s)).countP (fun c => !s.p.get c.1 c.2) = unprotectedCount s.p (gridSize s) := by
  have hperm : ((zigzag (gridSize s)).filter fun c => !s.p.get c.1 c.2).Perm
      ((squareCells (gridSize s)).filter fun c => !s.p.get c.1 c.2) := by
    refine (List.perm_ext_iff_of_nodup ((nodup_zigzag_gridSize hinv hg).filter _)
      ((nodup_squareCells _).filter _)).2 fun ⟨x, y⟩ => ?_
    simp only [List.mem_filter, Bool.not_eq_true']
    exact and_congr_left fun hp => (mem_zigzag_of_unprotected hinv hg hp).trans (mem_squareCells _ (x, y)).symm
  rw [unprotectedCount, List.countP_eq_length_filter, List.countP_eq_length_filter, hperm.length_eq]

end

/-- A symbol's cells can be counted in 16 bits. -/
theorem unprotectedCount_lt (s : State) : unprotectedCount s.p (gridSize s) < 2 ^ 16 :=
  calc unprotectedCount s.p (gridSize s)
    _ ≤ gridSize s * gridSize s := List.countP_le_length.trans_eq (length_squareCells _)
    _ ≤ 255 * 255 := Nat.mul_self_le_mul_self (Nat.le_of_lt_succ s.gridInfo.size.isLt)
    _ < 2 ^ 16 := by decide

/-- PLACED and REMBITS add up to the number of unprotected cells (R511). -/
theorem toNat_placed_remBits {len u : Nat} (hlen : len ≤ u) (hu : u < 2 ^ 16) :
    (BitVec.ofNat 16 len).toNat = len ∧ (BitVec.ofNat 16 len).toNat + (BitVec.ofNat 16 (u - len)).toNat = u := by
  rw [BitVec.toNat_ofNat, BitVec.toNat_ofNat]
  omega

/-! ### The command (R510) -/

theorem effPlace_of_not_gv {s : State} (hg : s.status.gv = false) : effPlace s = .error .noGrid :=
  withGrid_of_not_gv hg _

section
variable {s : State} (hg : s.status.gv = true)
include hg

theorem effPlace_of_masked (hm : s.status.masked = true) : effPlace s = .error .seq :=
  (withGrid_of_gv hg _).trans (withUnmasked_of_masked hm _)

theorem effPlace_of_overlong (hm : s.status.masked = false) (hcount : 4096 < s.cwCount.toNat) :
    effPlace s = .error .badRange := by
  rw [effPlace, withGrid_of_gv hg, withUnmasked_of_unmasked hm]
  exact if_pos hcount

end

end Sys2Proof.Machine

namespace Sys2Proof.Proofs

open Sys2Proof.Machine

/-- Settles O31: the walk is its column pairs one after the other; it is as long as the set of its cells, so it repeats
none. -/
theorem zigzagIsTheBoustrophedonWalk : Obligations.ZigzagIsTheBoustrophedonWalk := by
  intro v h1 _
  obtain ⟨n, hn, hsize⟩ : ∃ n, 4 ≤ n ∧ 17 + 4 * v = 2 * n + 1 := ⟨2 * v + 8, by omega, by omega⟩
  dsimp only
  rw [hsize]
  refine ⟨fun q t hq ht => ?_, length_zigzag hn, nodup_zigzag hn, fun x y => mem_zigzag hn⟩
  have hq' : q < n := by omega
  exact ⟨getElem?_zigzag hn hq' ht (j := 0) (by simp [sweepCells, sweepRow]),
    getElem?_zigzag hn hq' ht (j := 1) (by simp [sweepCells, sweepRow])⟩

/-- Settles O32: the checks in their order, each with the command's own error code. -/
theorem placeChecksInOrder : Obligations.PlaceChecksInOrder := by
  intro s
  rw [exec_eq_conclude (i := .place) nofun, effectOf]
  refine ⟨fun hg => ?_, fun hg hm => ?_, fun hg hm hcount => ?_, fun hg hm hcount hfit => ?_⟩
  · rw [effPlace_of_not_gv hg]; rfl
  · rw [effPlace_of_masked hg hm]; rfl
  · rw [effPlace_of_overlong hg hm hcount]; rfl
  · rw [effPlace_of_not_fits hg hm hcount (Nat.not_le.2 hfit)]; rfl

/-- Settles O33: the walk repeats no cell and misses no unprotected one, so its unprotected cells are as many as the
symbol's and take the content bits one after the other. -/
theorem placeWritesContentInOrder : Obligations.PlaceWritesContentInOrder := by
  intro s hinv hg hm hcount hfit
  obtain ⟨t, ht, -⟩ := exists_effPlace_of_fits hg hm hcount hfit
  rw [exec_eq_conclude (i := .place) nofun, effectOf, ht]
  obtain ⟨-, -, -, -, rfl⟩ := effPlace_ok ht
  obtain ⟨hplaced, hsum⟩ := toNat_placed_remBits hfit (unprotectedCount_lt s)
  have hinside : ∀ c ∈ zigzag (gridSize s), c.1 < Config.gridDim ∧ c.2 < Config.gridDim := fun c hc =>
    (zigzag_inside _ c hc).imp (Nat.lt_of_lt_of_le · (gridSize_le_gridDim hinv hg))
      (Nat.lt_of_lt_of_le · (gridSize_le_gridDim hinv hg))
  refine ⟨_, rfl, rfl, hplaced, hsum, ?_, fun x y h => ?_⟩
  · rw [← countP_zigzag_unprotected hinv hg, List.range_eq_range']
    exact map_get_placeFold s.p (contentBit s) s.v 0 (nodup_zigzag_gridSize hinv hg) hinside
  · rcases h with hp | hout
    · exact get_placeFold_of_not s.p _ _ s.v 0 (.inl hp)
    · exact sameOutside_placeBits _ s.v s.p _ x y hout

end Sys2Proof.Proofs
end

section
/-! PROOF. The candidate grids: the two copies of the format word over the masked plane (45_mask.md R531, 46_format.md
R603). -/

namespace Sys2Proof.Machine

/-! ### The cells of the two format copies (46_format.md R603) -/

theorem formatCopy1_eq_map : Claims.formatCopy1 = (List.range 15).map formatCell1 := by decide

theorem formatCopy2_eq_map {size : Nat} (hs : 15 ≤ size) :
    Claims.formatCopy2 size = (List.range 15).map (formatCell2 size) := by
  obtain ⟨n, rfl⟩ := Nat.exists_eq_add_of_le' hs
  rfl

/-- The cell takes bit i of a format word, in one copy or the other. -/
def FormatBitAt (size i : Nat) (c : Nat × Nat) : Prop := c = formatCell1 i ∨ c = formatCell2 size i

theorem formatCell1_injOn : ∀ i < 15, ∀ j < 15, formatCell1 i = formatCell1 j → i = j := by decide

theorem formatCell1_le : ∀ i < 15, (formatCell1 i).1 ≤ 8 ∧ (formatCell1 i).2 ≤ 8 := by decide

section
variable {size : Nat} (hs : 21 ≤ size)
include hs

theorem formatCell2_injOn {i j : Nat} (hi : i < 15) (hj : j < 15) (h : formatCell2 size i = formatCell2 size j) :
    i = j := by
  unfold formatCell2 at h
  split_ifs at h <;> simp only [Prod.mk.injEq] at h <;> omega

/-- Copy 1 lies around the top-left finder, copy 2 beside the other two. -/
theorem formatCell1_ne_formatCell2 {i j : Nat} (hi : i < 15) (hj : j < 15) : formatCell1 i ≠ formatCell2 size j := by
  intro h
  have hle := formatCell1_le i hi
  rw [h, formatCell2] at hle
  split_ifs at hle <;> simp only at hle <;> omega

/-- No cell takes two bits. -/
theorem formatBitAt_unique {i j : Nat} {c : Nat × Nat} (hi : i < 15) (hj : j < 15) (h : FormatBitAt size i c)
    (h' : FormatBitAt size j c) : i = j := by
  rcases h with rfl | rfl <;> rcases h' with h' | h'
  · exact formatCell1_injOn i hi j hj h'
  · exact absurd h' (formatCell1_ne_formatCell2 hs hi hj)
  · exact absurd h'.symm (formatCell1_ne_formatCell2 hs hj hi)
  · exact formatCell2_injOn hs hi hj h'

theorem formatCell_iff {x y : Nat} : Claims.formatCell size x y ↔ ∃ i < 15, FormatBitAt size i (x, y) := by
  rw [Claims.formatCell, formatCopy1_eq_map, formatCopy2_eq_map (by omega)]
  simp only [List.mem_map, List.mem_range, ← exists_or, ← and_or_left, FormatBitAt, eq_comm]

end

theorem mem_formatWrites {size : Nat} {f : BitVec 15} {c : Nat × Nat × Bool} :
    c ∈ formatWrites size f ↔ ∃ i < 15, FormatBitAt size i (c.1, c.2.1) ∧ c.2.2 = f.getLsbD i := by
  obtain ⟨x, y, b⟩ := c
  simp only [formatWrites, List.mem_append, List.mem_map, List.mem_range, FormatBitAt, Prod.ext_iff, ← exists_or,
    ← and_or_left, or_and_right, and_assoc, eq_comm]

/-! ### Writing a format word (46_format.md R603) -/

section
variable {size : Nat} (hs : 21 ≤ size) (v : Plane) (f : BitVec 15)
include hs

theorem get_setAll_formatWrites (hd : size ≤ Config.gridDim) {i : Nat} {c : Nat × Nat} (hi : i < 15)
    (hc : FormatBitAt size i c) : (v.setAll (formatWrites size f)).get c.1 c.2 = f.getLsbD i := by
  have hmem : (c.1, c.2, f.getLsbD i) ∈ formatWrites size f := mem_formatWrites.2 ⟨i, hi, hc, rfl⟩
  obtain ⟨hx, hy⟩ := formatWrites_inside hs f _ hmem
  refine get_setAll_of_mem v _ (hx.trans_le hd) (hy.trans_le hd) ⟨_, hmem, rfl, rfl⟩ fun d hm hdx hdy => ?_
  obtain ⟨j, hj, hcell, hbit⟩ := mem_formatWrites.1 hm
  rw [hdx, hdy] at hcell
  rw [hbit, formatBitAt_unique hs hj hi hcell hc]

theorem holdsFormat_setAll_formatWrites (hd : size ≤ Config.gridDim) :
    Claims.holdsFormat (v.setAll (formatWrites size f)) size f := by
  intro i hi
  rw [formatCopy1_eq_map, formatCopy2_eq_map (by omega)]
  simp only [List.getElem?_map, List.getElem?_range hi, Option.map_some, Option.some.injEq]
  exact ⟨fun _ hc => get_setAll_formatWrites hs v f hd hi (.inl hc.symm),
    fun _ hc => get_setAll_formatWrites hs v f hd hi (.inr hc.symm)⟩

theorem get_setAll_formatWrites_of_not {x y : Nat} (h : ¬ Claims.formatCell size x y) :
    (v.setAll (formatWrites size f)).get x y = v.get x y := by
  refine get_setAll_of_not_mem v _ fun c hm ⟨hx, hy⟩ => h ((formatCell_iff hs).2 ?_)
  obtain ⟨i, hi, hc, -⟩ := mem_formatWrites.1 hm
  exact ⟨i, hi, hx ▸ hy ▸ hc⟩

end

/-! ### The masked plane of a symbol that fits the planes (45_mask.md R531) -/

theorem get_masked_of_le_gridDim {size : Nat} (hd : size ≤ Config.gridDim) (m : Nat) (v p : Plane) (x y : Nat) :
    (masked size m v p).get x y =
      if x < size ∧ y < size ∧ p.get x y = false ∧ maskPred m y x = true then !v.get x y else v.get x y := by
  rw [get_masked]
  by_cases hin : x < Config.gridDim ∧ y < Config.gridDim
  · simp [hin]
  · rw [if_neg (by omega), get_outside v (by omega), Bool.and_false]

end Sys2Proof.Machine

namespace Sys2Proof.Proofs

open Sys2Proof.Machine

/-- Settles O34: no cell takes two bits of the format word, so both copies hold it; every other cell is the masked
plane's. -/
theorem candidateCells : Obligations.CandidateCells := by
  intro s m hinv hg _
  have hs := gridSize_ge hinv hg
  have hd := gridSize_le_gridDim hinv hg
  refine ⟨holdsFormat_setAll_formatWrites hs _ _ hd, fun x y hxy => ?_⟩
  rw [candidate, get_setAll_formatWrites_of_not hs _ _ hxy, get_masked_of_le_gridDim hd]
  exact ⟨fun hflip => if_pos hflip, fun hkeep => if_neg hkeep⟩

end Sys2Proof.Proofs
end

section
/-! PROOF. The four penalties as counts and sums over the cells and lines of the symbol (45_mask.md R532 to R535). -/

namespace Sys2Proof.Machine

/-! ### Counts over cells, sums over lines -/

theorem countP_squareCells (size : Nat) (q : Nat × Nat → Bool) :
    (squareCells size).countP q = ((Finset.range size ×ˢ Finset.range size).filter fun c => q c = true).card := by
  have hcells : (squareCells size).toFinset = Finset.range size ×ˢ Finset.range size := by
    ext c
    rw [List.mem_toFinset, mem_squareCells, Finset.mem_product, Finset.mem_range, Finset.mem_range]
  rw [← hcells, ← List.toFinset_filter, List.toFinset_card_of_nodup ((nodup_squareCells size).filter q),
    List.countP_eq_length_filter]

/-- The 2S lines are the rows and the columns. -/
theorem sum_map_gridLines (w : Plane) (size : Nat) (f : List Bool → Nat) :
    ((gridLines w size).map f).sum =
      (∑ y ∈ Finset.range size, f (rowLine w size y)) + ∑ x ∈ Finset.range size, f (colLine w size x) := by
  rw [gridLines, List.map_append, List.sum_append, List.map_map, List.map_map]
  rfl

/-! ### N1 (45_mask.md R532) -/

theorem sum_runPenalty_eq (line : List Bool) : ((runs line).map runPenalty).sum = Claims.lineRunPenalty line := by
  rw [Claims.lineRunPenalty]
  induction runs line with
  | nil => rfl
  | cons len lens ih =>
    rw [List.map_cons, List.sum_cons, ih, runPenalty]
    by_cases h : 5 ≤ len
    · simp [h, show len - 2 = 3 + (len - 5) by omega]
    · simp [h]

/-- `lens` are the lengths of the maximal runs of the line, the first of colour `b`: runs of alternating colours, none
empty, that make up the line. -/
def RunsOf (b : Bool) (lens : List Nat) (line : List Bool) : Prop :=
  ∃ colours : List Bool, (b :: colours).length = lens.length ∧
    line = ((b :: colours).zip lens).flatMap (fun r => List.replicate r.2 r.1) ∧
    (∀ n ∈ lens, 1 ≤ n) ∧ (b :: colours).IsChain (· ≠ ·)

theorem runsFrom_runsOf (b : Bool) {n : Nat} (hn : 1 ≤ n) (cs : List Bool) :
    RunsOf b (runsFrom b n cs) (List.replicate n b ++ cs) := by
  induction cs generalizing b n with
  | nil => exact ⟨[], rfl, by simp [runsFrom], by simpa [runsFrom] using hn, by simp⟩
  | cons c cs ih =>
    rw [runsFrom]
    split
    case isTrue hcb =>
      have happend : List.replicate n b ++ c :: cs = List.replicate (n + 1) b ++ cs := by
        rw [List.replicate_succ', hcb, List.append_assoc, List.singleton_append]
      exact happend ▸ ih b (by omega)
    case isFalse hcb =>
      obtain ⟨colours, hlen, hline, hpos, hchain⟩ := ih c (Nat.le_refl 1)
      refine ⟨c :: colours, by simpa using hlen, ?_, by simpa [hn] using hpos, hchain.cons_cons (Ne.symm hcb)⟩
      rw [List.zip_cons_cons, List.flatMap_cons, ← hline]
      rfl

/-! ### N3 (45_mask.md R534) -/

/-- Eleven consecutive cells of a line given by a function. -/
theorem take_drop_map_range (line : Nat → Bool) {size i : Nat} (hi : i < size - 10) :
    (((List.range size).map line).drop i).take 11 = (List.range 11).map fun k => line (i + k) := by
  refine List.ext_getElem ?_ fun k _ _ => by simp
  simp only [List.length_take, List.length_drop, List.length_map, List.length_range]
  omega

theorem altPattern_eq (patMode : Bool) : altPattern patMode = Claims.patternAlt patMode := by cases patMode <;> rfl

theorem patternWindows_map_range (patMode : Bool) (line : Nat → Bool) (size : Nat) :
    patternWindows patMode ((List.range size).map line) =
      ((Finset.range (size - 10)).filter fun i => Claims.windowMatches patMode line i).card := by
  rw [patternWindows, List.length_map, List.length_range, List.countP_eq_length_filter]
  have hwindow : ∀ i ∈ List.range (size - 10),
      (((List.range size).map line |>.drop i).take 11 == finderLike ||
        ((List.range size).map line |>.drop i).take 11 == altPattern patMode) =
      decide (Claims.windowMatches patMode line i) := fun i hi => by
    rw [take_drop_map_range line (List.mem_range.1 hi), altPattern_eq, Bool.decide_or, ← Bool.beq_eq_decide_eq,
      ← Bool.beq_eq_decide_eq]
    rfl
  rw [List.filter_congr hwindow]
  rfl

theorem sum_patternWindows (patMode : Bool) (line : Nat → Nat → Bool) (size : Nat) :
    (∑ j ∈ Finset.range size, patternWindows patMode ((List.range size).map (line j))) =
      ((Finset.range size ×ˢ Finset.range (size - 10)).filter fun c =>
        Claims.windowMatches patMode (line c.1) c.2).card := by
  simp only [patternWindows_map_range, Finset.card_filter, Finset.sum_product]

/-! ### N4 (45_mask.md R535) -/

theorem darkCount_eq (w : Plane) (size : Nat) : darkCount w size = Claims.darkCells w size := countP_squareCells size _

theorem balanceDeviation_eq_floor (dark : Nat) {total : Nat} (ht : 0 < total) :
    (balanceDeviation dark total : Int) = ⌊|(100 * dark : ℚ) / total - 50|⌋ := by
  have ht' : (0 : ℚ) < total := by exact_mod_cast ht
  have hdist : |(100 * dark : ℚ) - 50 * total| = (dist (100 * dark) (50 * total) : Nat) := by
    exact_mod_cast abs_sub_eq_dist (100 * dark) (50 * total)
  have hdiv : |(100 * dark : ℚ) / total - 50| = (dist (100 * dark) (50 * total) : Nat) / total := by
    rw [← hdist, ← abs_of_pos ht', ← abs_div, abs_of_pos ht', sub_div, mul_div_cancel_right₀ _ ht'.ne']
  rw [hdiv, Rat.floor_natCast_div_natCast, balanceDeviation, Int.natCast_div]

end Sys2Proof.Machine

namespace Sys2Proof.Proofs

open Sys2Proof.Machine

/-- Settles O38: the runs of a line are built run by run, each closed where the colour changes; N1 sums their penalties over
the rows and the columns. -/
theorem runsAreMaximal : Obligations.RunsAreMaximal := by
  refine ⟨fun line => ?_, fun w size => ?_⟩
  · cases line with
    | nil => exact ⟨[], rfl, rfl, nofun, .nil⟩
    | cons b bs =>
      obtain ⟨colours, hruns⟩ := runsFrom_runsOf b (Nat.le_refl 1) bs
      exact ⟨b :: colours, hruns⟩
  · simp only [penaltyRuns, sum_runPenalty_eq]
    exact sum_map_gridLines w size Claims.lineRunPenalty

/-- Settles O60: N2 counts cells of the square of side S - 1; N3 counts window starts line by line. -/
theorem blocksAndPatternsAreCounted : Obligations.BlocksAndPatternsAreCounted := by
  refine fun w size => ⟨?_, fun patMode => ?_⟩
  · simp only [penaltyBlocks, countP_squareCells, blockAt, Bool.and_eq_true, beq_iff_eq, and_assoc]
  · rw [penaltyPatterns, sum_map_gridLines]
    congr 2
    · exact sum_patternWindows patMode (fun y x => w.get x y) size
    · exact sum_patternWindows patMode w.get size

/-- Settles O39: the exact deviation is a quotient of natural numbers, so its floor is the integer quotient. -/
theorem balanceDeviationIsFloor : Obligations.BalanceDeviationIsFloor := by
  refine ⟨fun dark total ht => balanceDeviation_eq_floor dark ht, fun w size hs => ?_⟩
  dsimp only
  rw [← balanceDeviation_eq_floor _ (Nat.mul_pos hs hs), ← darkCount_eq, penaltyBalance, penaltyBalance,
    if_neg Bool.false_ne_true, if_pos rfl]
  omega

end Sys2Proof.Proofs
end

section
/-! PROOF. The commands of the masking engine: their checks, and what they record and apply (45_mask.md R536 to R543). -/

namespace Sys2Proof.Machine

/-! ### The checks of the mask commands (R541 to R543) -/

/-- NO_GRID, then SEQ; otherwise the command concludes with its effect. -/
theorem conclude_unmaskedGrid (s : State) (r : Except ErrorCode State) :
    (s.status.gv = false → conclude s (withGrid s (withUnmasked s r)) = .next (Claims.failed 7 s)) ∧
      (s.status.gv = true → s.status.masked = true →
        conclude s (withGrid s (withUnmasked s r)) = .next (Claims.failed 10 s)) ∧
      (s.status.gv = true → s.status.masked = false → conclude s (withGrid s (withUnmasked s r)) = conclude s r) := by
  refine ⟨fun hg => ?_, fun hg hm => ?_, fun hg hm => ?_⟩
  · rw [withGrid_of_not_gv hg]; rfl
  · rw [withGrid_of_gv hg, withUnmasked_of_masked hm]; rfl
  · rw [withGrid_of_gv hg, withUnmasked_of_unmasked hm]

/-- INVALID_CONFIG for m of 8 or more; otherwise the command concludes with its effect (30_encoding.md R211). -/
theorem conclude_maskId (m : Nat) (s : State) (r : Except ErrorCode State) :
    (8 ≤ m → conclude s (withMaskId m r) = .next (Claims.failed 4 s)) ∧
      (m < 8 → conclude s (withMaskId m r) = conclude s r) := by
  refine ⟨fun h => ?_, fun h => ?_⟩
  · rw [withMaskId_of_ge h]; rfl
  · rw [withMaskId_of_lt h]

/-- The SCORE register of a legal mask id takes the total (R541). -/
theorem setIfInBounds_eq_set (scores : Vector Word 8) {m : Nat} (hm : m < 8) (total : Word) :
    scores.setIfInBounds m total = scores.set m total hm :=
  Vector.ext fun i hi => by rw [Vector.getElem_setIfInBounds hi, Vector.getElem_set]

/-! ### The totals and the choice (R536, R537) -/

theorem getD_totals (s : State) {m : Nat} (hm : m < 8) : ((List.range 8).map (score s)).getD m 0 = score s m := by
  simp [List.getD, hm]

/-- The chosen mask has the smallest total, and a smaller one than every lower id. -/
theorem bestMask_spec (s : State) :
    (∀ m, m < 8 → score s (bestMask s) ≤ score s m) ∧ ∀ m, m < bestMask s → score s (bestMask s) < score s m := by
  obtain ⟨hlt, hmin, hlow⟩ := pickBest_spec fun m => ((List.range 8).map (score s)).getD m 0
  refine ⟨fun m hm => ?_, fun m hm => ?_⟩
  · have := hmin m hm
    rwa [getD_totals s hlt, getD_totals s hm] at this
  · have := hlow m hm
    rwa [getD_totals s hlt, getD_totals s (hm.trans hlt)] at this

end Sys2Proof.Machine

namespace Sys2Proof.Proofs

open Sys2Proof.Machine

/-- Settles O35: the checks in their order; then the four penalties of the candidate and their sum are recorded. -/
theorem maskScoreRecordsPenalties : Obligations.MaskScoreRecordsPenalties := by
  intro m s
  rw [exec_eq_conclude (i := .maskScore m) nofun, effectOf, effMaskScore]
  obtain ⟨hbadId, hid⟩ := conclude_maskId m s _
  obtain ⟨hnoGrid, hseq, hrun⟩ := conclude_unmaskedGrid s _
  refine ⟨hbadId, fun h hg => (hid h).trans (hnoGrid hg), fun h hg hm => (hid h).trans (hseq hg hm), fun h hg hm => ?_⟩
  rw [hid h, hrun hg hm]
  dsimp only
  rw [setIfInBounds_eq_set s.scores h]
  rfl

/-- Settles O36: the checks in their order; then the candidate and its format word are applied. -/
theorem maskApplyPutsTheCandidate : Obligations.MaskApplyPutsTheCandidate := by
  intro m s
  rw [exec_eq_conclude (i := .maskApply m) nofun, effectOf, effMaskApply]
  obtain ⟨hbadId, hid⟩ := conclude_maskId m s _
  obtain ⟨hnoGrid, hseq, hrun⟩ := conclude_unmaskedGrid s _
  exact ⟨hbadId, fun h hg => (hid h).trans (hnoGrid hg), fun h hg hm => (hid h).trans (hseq hg hm),
    fun h hg hm => (hid h).trans (hrun hg hm)⟩

/-- Settles O37: the checks in their order; then the chosen mask is applied as MASK_APPLY applies it, and every total
recorded. -/
theorem maskAutoPicksLowestScore : Obligations.MaskAutoPicksLowestScore := by
  intro s
  rw [exec_eq_conclude (i := .maskAuto) nofun, effectOf, effMaskAuto]
  obtain ⟨hnoGrid, hseq, hrun⟩ := conclude_unmaskedGrid s _
  obtain ⟨hmin, hlow⟩ := bestMask_spec s
  exact ⟨hnoGrid, hseq, fun hg hm => ⟨bestMask s, _, bestMask_lt s, hmin, hlow, hrun hg hm, rfl, fun m =>
    (Vector.getElem_ofFn m.isLt).trans (congrArg (BitVec.ofNat 32) (getD_totals s m.isLt))⟩⟩

end Sys2Proof.Proofs
end

section
/-! PROOF. The format word as a BCH codeword, and the commands that compute it and write the format and version words into
the grid (46_format.md sections 1 to 3). -/

namespace Sys2Proof.Machine

/-! ### The reduction loop and the multiples of the generator (46_format.md R600, R601) -/

/-- One step adds the generator shifted under bit k, or nothing. -/
theorem bchStep_eq_xor (r : BitVec 15) (k : Nat) :
    bchStep r k = r ^^^ if r.getLsbD k then 0x537#15 <<< (k - 10) else 0 := by
  unfold bchStep
  split <;> simp

/-- The shifted generator leads with bit k. -/
theorem shiftedGenerator_leads : ∀ k < 15, 10 ≤ k →
    (0x537#15 <<< (k - 10)).toNat < 2 ^ (k + 1) ∧ (0x537#15 <<< (k - 10)).getLsbD k = true := by decide

/-- A step lowers the degree: it clears bit k of a word that has no bit above it. -/
theorem toNat_bchStep_lt {r : BitVec 15} {k : Nat} (hk : k < 15 ∧ 10 ≤ k) (hr : r.toNat < 2 ^ (k + 1)) :
    (bchStep r k).toNat < 2 ^ k := by
  obtain ⟨hlt, hlead⟩ := shiftedGenerator_leads k hk.1 hk.2
  have hbit : (bchStep r k).getLsbD k = false := by
    unfold bchStep
    split
    next hset => rw [BitVec.getLsbD_xor, hset, hlead]; rfl
    next hclear => exact Bool.eq_false_iff.2 hclear
  have habove : (bchStep r k).toNat < 2 ^ (k + 1) := by
    unfold bchStep
    split
    · exact Nat.xor_lt_two_pow hr hlt
    · exact hr
  refine Nat.lt_pow_two_of_testBit _ fun i hi => ?_
  rcases hi.eq_or_lt with rfl | hi
  · exact hbit
  · exact Nat.testBit_lt_two_pow (habove.trans_le (Nat.pow_le_pow_right (by decide) hi))

/-- The remainder has 10 bits. -/
theorem toNat_bchReduce_lt (r : BitVec 15) : (bchReduce r).toNat < 2 ^ 10 :=
  toNat_bchStep_lt (by decide) <| toNat_bchStep_lt (by decide) <| toNat_bchStep_lt (by decide) <|
    toNat_bchStep_lt (by decide) <| toNat_bchStep_lt (by decide) r.isLt

/-- One term of the carry-less product of q and the generator. -/
def addShifted (q acc i : Nat) : Nat := if q.testBit i then acc ^^^ (0x537 <<< i) else acc

theorem addShifted_xor (q q' a b i : Nat) :
    addShifted q a i ^^^ addShifted q' b i = addShifted (q ^^^ q') (a ^^^ b) i := by
  unfold addShifted
  rw [Nat.testBit_xor]
  cases q.testBit i <;> cases q'.testBit i <;> simp [Nat.xor_assoc, Nat.xor_left_comm, Nat.xor_comm]

theorem foldl_addShifted_xor (q q' : Nat) (is : List Nat) (a b : Nat) :
    is.foldl (addShifted q) a ^^^ is.foldl (addShifted q') b = is.foldl (addShifted (q ^^^ q')) (a ^^^ b) := by
  induction is generalizing a b with
  | nil => rfl
  | cons i is ih => rw [List.foldl_cons, List.foldl_cons, List.foldl_cons, ih, addShifted_xor]

/-- The product with the generator is linear. -/
theorem bchMultiple_xor (q q' : Nat) :
    Claims.bchMultiple q ^^^ Claims.bchMultiple q' = Claims.bchMultiple (q ^^^ q') := foldl_addShifted_xor q q' _ 0 0

/-- A word that is a multiple of the generator. -/
def IsBchMultiple (u : BitVec 15) : Prop := ∃ q, q < 32 ∧ Claims.bchMultiple q = u.toNat

theorem IsBchMultiple.xor {u w : BitVec 15} (hu : IsBchMultiple u) (hw : IsBchMultiple w) : IsBchMultiple (u ^^^ w) := by
  obtain ⟨q, hq, hu⟩ := hu
  obtain ⟨q', hq', hw⟩ := hw
  refine ⟨q ^^^ q', Nat.xor_lt_two_pow (n := 5) hq hq', ?_⟩
  rw [← bchMultiple_xor, hu, hw, BitVec.toNat_xor]

theorem IsBchMultiple.zero : IsBchMultiple 0 := ⟨0, by decide, rfl⟩

theorem isBchMultiple_shiftedGenerator {k : Nat} (hk : k < 15 ∧ 10 ≤ k) : IsBchMultiple (0x537#15 <<< (k - 10)) := by
  have hterm : ∀ k < 15, 10 ≤ k → Claims.bchMultiple (2 ^ (k - 10)) = (0x537#15 <<< (k - 10)).toNat := by decide
  exact ⟨2 ^ (k - 10), Nat.pow_lt_pow_right (n := 5) (by decide) (by omega), hterm k hk.1 hk.2⟩

/-- The steps of the loop change the word by a multiple of the generator. -/
theorem isBchMultiple_xor_foldl {ks : List Nat} (hks : ∀ k ∈ ks, k < 15 ∧ 10 ≤ k) (r : BitVec 15) :
    IsBchMultiple (r ^^^ ks.foldl bchStep r) := by
  induction ks generalizing r with
  | nil => simpa using IsBchMultiple.zero
  | cons k ks ih =>
    have hstep : IsBchMultiple (r ^^^ bchStep r k) := by
      rw [bchStep_eq_xor, ← BitVec.xor_assoc, BitVec.xor_self, BitVec.zero_xor]
      split
      · exact isBchMultiple_shiftedGenerator (hks k List.mem_cons_self)
      · exact IsBchMultiple.zero
    have hrest := ih (fun j hj => hks j (List.mem_cons_of_mem _ hj)) (bchStep r k)
    simpa [BitVec.xor_assoc, ← BitVec.xor_assoc (bchStep r k)] using hstep.xor hrest

theorem isBchMultiple_xor_bchReduce (r : BitVec 15) : IsBchMultiple (r ^^^ bchReduce r) :=
  isBchMultiple_xor_foldl (by decide) r

/-- 0 is the only multiple of the generator that has no bit above bit 9. -/
theorem IsBchMultiple.eq_zero {u : BitVec 15} (hu : IsBchMultiple u) (hlt : u.toNat < 2 ^ 10) : u = 0 := by
  have hsmall : ∀ q < 32, Claims.bchMultiple q < 2 ^ 10 → Claims.bchMultiple q = 0 := by decide
  obtain ⟨q, hq, hqu⟩ := hu
  exact BitVec.eq_of_toNat_eq (hqu ▸ hsmall q hq (hqu ▸ hlt))

/-- The loop reduces a multiple to 0: what it leaves is a multiple too, of 10 bits. -/
theorem IsBchMultiple.bchReduce_eq_zero {u : BitVec 15} (hu : IsBchMultiple u) : bchReduce u = 0 := by
  have hrem : IsBchMultiple (bchReduce u) := by
    simpa [← BitVec.xor_assoc] using hu.xor (isBchMultiple_xor_bchReduce u)
  exact hrem.eq_zero (toNat_bchReduce_lt u)

/-! ### The format word (46_format.md R600, R601) -/

/-- Level code and mask id in bits 14:10. -/
def formatData (e : BitVec 2) (m : BitVec 3) : BitVec 15 := e ++ m ++ 0#10

theorem toNat_formatData (e : BitVec 2) (m : BitVec 3) : (formatData e m).toNat = 2 ^ 10 * (8 * e.toNat + m.toNat) := by
  rw [formatData, toNat_append_eq_add, toNat_append_eq_add]
  simp only [BitVec.toNat_ofNat]
  omega

/-- With the mask undone, the format word is its data followed by their remainder. -/
theorem fmtWord_xor_mask (e : BitVec 2) (m : BitVec 3) :
    fmtWord e m ^^^ 0x5412#15 = formatData e m ||| bchReduce (formatData e m) := by
  rw [fmtWord, BitVec.xor_assoc, BitVec.xor_self, BitVec.xor_zero]
  rfl

section
variable (e : BitVec 2) (m : BitVec 3)

theorem toNat_fmtWord_xor_mask : (fmtWord e m ^^^ 0x5412#15).toNat =
    2 ^ 10 * (8 * e.toNat + m.toNat) + (bchReduce (formatData e m)).toNat := by
  rw [fmtWord_xor_mask, BitVec.toNat_or, toNat_formatData, Nat.two_pow_add_eq_or_of_lt (toNat_bchReduce_lt _)]

/-- Data and remainder share no bit. -/
theorem formatData_or_bchReduce :
    formatData e m ||| bchReduce (formatData e m) = formatData e m ^^^ bchReduce (formatData e m) := by
  have hrem := toNat_bchReduce_lt (formatData e m)
  refine BitVec.eq_of_getLsbD_eq fun i _ => ?_
  rw [BitVec.getLsbD_or, BitVec.getLsbD_xor]
  by_cases hi : i < 10
  · have hdata : (formatData e m).getLsbD i = false := by
      rw [← BitVec.testBit_toNat, toNat_formatData, Nat.testBit_two_pow_mul, decide_eq_false (Nat.not_le.2 hi),
        Bool.false_and]
    rw [hdata, Bool.false_or, Bool.false_xor]
  · have hbit : (bchReduce (formatData e m)).getLsbD i = false :=
      Nat.testBit_lt_two_pow (hrem.trans_le (Nat.pow_le_pow_right (by decide) (by omega)))
    rw [hbit, Bool.or_false, Bool.xor_false]

theorem isBchMultiple_fmtWord_xor_mask : IsBchMultiple (fmtWord e m ^^^ 0x5412#15) := by
  rw [fmtWord_xor_mask, formatData_or_bchReduce]
  exact isBchMultiple_xor_bchReduce _

end

/-! ### Writing a version word (46_format.md R610) -/

/-- The cell takes bit i of a version word, in one block or the other. -/
def VersionBitAt (size i : Nat) (c : Nat × Nat) : Prop :=
  c = (size - 11 + i % 3, i / 3) ∨ c = (i / 3, size - 11 + i % 3)

theorem mem_versionWrites {size : Nat} {w : BitVec 18} {c : Nat × Nat × Bool} :
    c ∈ versionWrites size w ↔ ∃ i < 18, VersionBitAt size i (c.1, c.2.1) ∧ c.2.2 = w.getLsbD i := by
  obtain ⟨x, y, b⟩ := c
  simp only [versionWrites, versionCell, List.mem_flatMap, List.mem_range, List.map_cons, List.map_nil, List.mem_cons,
    List.not_mem_nil, or_false, VersionBitAt, Prod.mk.injEq, or_and_right, and_assoc]

section
variable {size : Nat} (hs : 45 ≤ size)
include hs

/-- No cell takes two bits: each bit has its own cell of a block, and the blocks lie apart. -/
theorem versionBitAt_unique {i j : Nat} {c : Nat × Nat} (hj : j < 18) (h : VersionBitAt size i c)
    (h' : VersionBitAt size j c) : i = j := by
  have hblocks : j / 3 < size - 11 := by omega
  obtain ⟨x, y⟩ := c
  simp only [VersionBitAt, Prod.mk.injEq] at h h'
  omega

theorem get_setAll_versionWrites (hd : size ≤ Config.gridDim) (v : Plane) (w : BitVec 18) {i : Nat} {c : Nat × Nat}
    (hi : i < 18) (hc : VersionBitAt size i c) : (v.setAll (versionWrites size w)).get c.1 c.2 = w.getLsbD i := by
  have hmem : (c.1, c.2, w.getLsbD i) ∈ versionWrites size w := mem_versionWrites.2 ⟨i, hi, hc, rfl⟩
  obtain ⟨hx, hy⟩ := versionWrites_inside hs w _ hmem
  refine get_setAll_of_mem v _ (hx.trans_le hd) (hy.trans_le hd) ⟨_, hmem, rfl, rfl⟩ fun d hm hdx hdy => ?_
  obtain ⟨j, hj, hcell, hbit⟩ := mem_versionWrites.1 hm
  rw [hdx, hdy] at hcell
  rw [hbit, versionBitAt_unique hs hi hcell hc]

theorem get_setAll_versionWrites_of_not (v : Plane) (w : BitVec 18) {x y : Nat}
    (h : ¬ Claims.versionCellOf size x y) : (v.setAll (versionWrites size w)).get x y = v.get x y := by
  refine get_setAll_of_not_mem v _ fun c hm ⟨hx, hy⟩ => h ((mem_versionReserve_iff_block (by omega)).1 ?_)
  obtain ⟨i, hi, hc, -⟩ := mem_versionWrites.1 hm
  exact mem_versionReserve.2 ⟨i, hi, hx ▸ hy ▸ hc⟩

end

/-! ### The check of FMT_WR and VINFO_WR (46_format.md R605, R612) -/

/-- NO_GRID without a grid; otherwise the command concludes with its effect. -/
theorem conclude_withGrid (s : State) (r : Except ErrorCode State) :
    (s.status.gv = false → conclude s (withGrid s r) = .next (Claims.failed 7 s)) ∧
      (s.status.gv = true → conclude s (withGrid s r) = conclude s r) := by
  refine ⟨fun hg => ?_, fun hg => ?_⟩
  · rw [withGrid_of_not_gv hg]; rfl
  · rw [withGrid_of_gv hg]

end Sys2Proof.Machine

namespace Sys2Proof.Proofs

open Sys2Proof.Machine

/-- Settles O41: data and remainder make a multiple of the generator, and the loop reduces every multiple to 0. -/
theorem fmtEncIsBchCodeword : Obligations.FmtEncIsBchCodeword := by
  intro m s
  rw [exec_eq_conclude (i := .fmtEnc m) nofun, effectOf, effFmtEnc]
  obtain ⟨hbadId, hid⟩ := conclude_maskId m s (.ok { s with fmt := fmtWord s.cfg.eccl (BitVec.ofNat 3 m) })
  refine ⟨hbadId, fun h => ⟨_, hid h, rfl, ?_, isBchMultiple_fmtWord_xor_mask _ _,
    (isBchMultiple_fmtWord_xor_mask _ _).bchReduce_eq_zero⟩⟩
  have hm : (BitVec.ofNat 3 m).toNat = m := by rw [BitVec.toNat_ofNat]; omega
  have hrem := toNat_bchReduce_lt (formatData s.cfg.eccl (BitVec.ofNat 3 m))
  rw [toNat_fmtWord_xor_mask, hm]
  omega

/-- Settles O42: no cell takes two bits of the format word, so both copies hold it. -/
theorem fmtWrWritesBothCopies : Obligations.FmtWrWritesBothCopies := by
  intro s hinv
  rw [exec_eq_conclude (i := .fmtWr) nofun, effectOf, effFmtWr]
  obtain ⟨hnoGrid, hrun⟩ := conclude_withGrid s (.ok { s with v := s.v.setAll (formatWrites (gridSize s) s.fmt) })
  refine ⟨hnoGrid, fun hg => ?_⟩
  have hs := gridSize_ge hinv hg
  exact ⟨_, hrun hg, rfl, holdsFormat_setAll_formatWrites hs _ _ (gridSize_le_gridDim hinv hg),
    fun _ _ => get_setAll_formatWrites_of_not hs _ _⟩

/-- Settles O43: a symbol of version 7 and up has at least 45 cells a side, so its version blocks lie apart and no cell
takes two bits. -/
theorem vinfoWrWritesBothBlocks : Obligations.VinfoWrWritesBothBlocks := by
  intro s hinv
  rw [exec_eq_conclude (i := .vinfoWr) nofun, effectOf, effVinfoWr]
  obtain ⟨hnoGrid, hgrid⟩ := conclude_withGrid s _
  refine ⟨hnoGrid, fun hg h7 => ?_, fun hg h7 => ?_⟩
  · rw [hgrid hg, if_pos h7]; rfl
  · have hs : 45 ≤ gridSize s := by
      obtain ⟨-, -, hsize, -⟩ := hinv.2 hg
      omega
    have hd := gridSize_le_gridDim hinv hg
    rw [hgrid hg, if_neg (by omega)]
    exact ⟨_, rfl, rfl, fun i hi => ⟨get_setAll_versionWrites hs hd _ _ hi (.inl rfl),
      get_setAll_versionWrites hs hd _ _ hi (.inr rfl)⟩, fun _ _ => get_setAll_versionWrites_of_not hs _ _⟩

end Sys2Proof.Proofs
end

section
/-! PROOF. NOP; RUN as the commands of its stages, and the ways it can end (47_control.md R650 to R652). -/

namespace Sys2Proof.Machine

/-! ### The stages as commands -/

theorem complete_congr {s t : State} (h : SameButReport s t) (e : Option ErrorCode) : complete e t = complete e s := by
  obtain ⟨_, _, _, _, rfl⟩ := h
  cases e <;> rfl

/-- The command chosen by `command` has the effect of `stage`; where none is chosen the stage does nothing. -/
def IsCommandOf (command : State → Option Instr) (stage : State → Except ErrorCode State) : Prop :=
  ∀ s, (command s = none ∧ stage s = .ok s) ∨ ∃ i, command s = some i ∧ exec i s = conclude s (stage s)

theorem isCommandOf_of_exec {i : Instr} {stage : State → Except ErrorCode State}
    (h : ∀ s, exec i s = conclude s (stage s)) : IsCommandOf (fun _ => some i) stage :=
  fun s => .inr ⟨i, rfl, h s⟩

theorem isCommandOf_stageVersionInfo :
    IsCommandOf (fun s => if 7 ≤ s.gridInfo.gver.toNat then some .vinfoWr else none) stageVersionInfo := by
  intro s
  by_cases h7 : 7 ≤ s.gridInfo.gver.toNat
  · exact .inr ⟨.vinfoWr, if_pos h7, by rw [stageVersionInfo, if_pos h7]; rfl⟩
  · exact .inl ⟨if_neg h7, if_neg h7⟩

/-- The stages after RS_ALL, each with its command. -/
theorem isCommandOf_stages_tail : List.Forall₂ IsCommandOf Claims.stageCommands.tail runStages.tail :=
  .cons (isCommandOf_of_exec fun _ => rfl) <| .cons (isCommandOf_of_exec fun _ => rfl) <|
    .cons (isCommandOf_of_exec fun _ => rfl) <| .cons isCommandOf_stageVersionInfo <|
      .cons (isCommandOf_of_exec fun _ => rfl) .nil

/-! ### Running the stages' commands -/

theorem runCommands_of_next {command : State → Option Instr} {i : Instr} {s t : State} (hi : command s = some i)
    (h : exec i s = .next (complete none t)) (rest : List (State → Option Instr)) (n : Nat) :
    Claims.runCommands (command :: rest) n s = Claims.runCommands rest (n + 1) (complete none t) := by
  simp [Claims.runCommands, Claims.after, hi, h, complete, Status.completed]

section
variable {command : State → Option Instr} {stage : State → Except ErrorCode State} (hcommand : IsCommandOf command stage)
include hcommand

/-- The command of a stage that raises no error completes without one; a skipped command leaves the last report. -/
theorem runCommands_of_ok {s t : State} (h : stage (complete none s) = .ok t) (rest : List (State → Option Instr))
    (n : Nat) :
    Claims.runCommands (command :: rest) n (complete none s) = Claims.runCommands rest (n + 1) (complete none t) := by
  rcases hcommand (complete none s) with ⟨hnone, hskip⟩ | ⟨i, hi, hexec⟩
  · cases hskip.symm.trans h
    simp only [Claims.runCommands, hnone]
    rfl
  · exact runCommands_of_next hi (by rw [hexec, h, conclude_ok]) rest n

/-- The command of a stage that raises an error ends with it. -/
theorem runCommands_of_error {s : State} {e : ErrorCode} (h : stage s = .error e) (rest : List (State → Option Instr))
    (n : Nat) : Claims.runCommands (command :: rest) n s = (n, complete (some e) s) := by
  rcases hcommand s with ⟨-, hskip⟩ | ⟨i, hi, hexec⟩
  · cases hskip.symm.trans h
  · rw [h, conclude_error] at hexec
    simp [Claims.runCommands, Claims.after, hi, hexec, complete, Status.completed]

end

/-- From a state whose last command completed without error, the commands stop where the stages stop: the report that each
command leaves is read by no stage, and the last one replaces it. -/
theorem runCommands_complete {commands : List (State → Option Instr)} {stages : List (State → Except ErrorCode State)}
    (h : List.Forall₂ IsCommandOf commands stages) (hstages : ∀ f ∈ stages, f ∈ runStages) {s u : State} {n m : Nat}
    {e : Option ErrorCode} (hrun : runFrom stages s n = (u, m, e)) :
    Claims.runCommands commands n (complete none s) = (m, complete e u) := by
  induction h generalizing s n with
  | nil => cases hrun; rfl
  | cons hcommand _ ih =>
    have hsame := complete_sameButReport none s
    rcases stage_sameButReport (hstages _ List.mem_cons_self) hsame with ⟨t, t', ht, ht', hsame'⟩ | ⟨err, ht, ht'⟩
    · rw [runCommands_of_ok hcommand ht', complete_congr hsame' none]
      exact ih (fun f hf => hstages f (List.mem_cons_of_mem _ hf)) ((runFrom_of_ok ht _ n).symm.trans hrun)
    · rw [runCommands_of_error hcommand ht', complete_congr hsame]
      cases (runFrom_of_error ht _ n).symm.trans hrun
      rfl

/-- The commands of all stages leave what the stages leave, with the report of RUN itself. -/
theorem runCommands_stageCommands {s u : State} {n : Nat} {e : Option ErrorCode}
    (h : runFrom runStages s 0 = (u, n, e)) : Claims.runCommands Claims.stageCommands 0 s = (n, complete e u) := by
  rcases runFrom_cons effRsAll runStages.tail s 0 with ⟨t, ht, hrun⟩ | ⟨err, ht, hrun⟩
  · have hexec : exec .rsAll s = .next (complete none t) := congrArg (conclude s) ht
    exact (runCommands_of_next rfl hexec _ 0).trans
      (runCommands_complete isCommandOf_stages_tail (fun _ => List.mem_of_mem_tail) (hrun.symm.trans h))
  · cases hrun.symm.trans h
    exact runCommands_of_error (stage := effRsAll) (isCommandOf_of_exec fun _ => rfl) ht _ 0

/-! ### How RUN can end -/

/-- RS_ALL and GRID_INIT can refuse the configuration and PLACE the length; after these no stage raises an error. -/
theorem runFrom_runStages_cases (s : State) :
    ∃ u, runFrom runStages s 0 = (u, 6, none) ∨ runFrom runStages s 0 = (u, 0, some .invalidConfig) ∨
      runFrom runStages s 0 = (u, 2, some .invalidConfig) ∨ runFrom runStages s 0 = (u, 3, some .lenMismatch) := by
  by_cases hprofile : profileOk s.cfg
  case neg => exact ⟨s, .inr (.inl (runFrom_of_error (effRsAll_of_not_profileOk hprofile) _ _))⟩
  obtain ⟨u, hrun, -, hcount⟩ := exists_runFrom_gridInit hprofile
  rw [hrun]
  by_cases hinit : Claims.initAccepts u
  case neg => exact ⟨u, .inr (.inr (.inl (runFrom_of_error (effGridInit_of_not_initAccepts hinit) _ _)))⟩
  rw [runFrom_of_ok (effGridInit_of_initAccepts hinit)]
  have hbuf : (withConfiguredGrid u).cwCount.toNat ≤ 4096 := by
    obtain ⟨-, -, -, -, -, hle⟩ := hprofile
    exact hcount.trans_le hle
  by_cases hfit : 8 * (withConfiguredGrid u).cwCount.toNat ≤
      unprotectedCount (withConfiguredGrid u).p (gridSize (withConfiguredGrid u))
  case neg => exact ⟨_, .inr (.inr (.inr (runFrom_of_error (effPlace_of_not_fits rfl rfl hbuf hfit) _ _)))⟩
  obtain ⟨t, ht, -⟩ := exists_runFrom_place_of_fits (s := withConfiguredGrid u) rfl rfl hbuf hfit 3
  exact ⟨t, .inl ht⟩

/-- Without an error the state is what the last stage left. -/
theorem exists_last_of_runFrom_none {stages : List (State → Except ErrorCode State)}
    {last : State → Except ErrorCode State} {s t : State} {n m : Nat}
    (h : runFrom (stages ++ [last]) s n = (t, m, none)) : ∃ u, last u = .ok t := by
  induction stages generalizing s n with
  | nil =>
    rcases runFrom_cons last [] s n with ⟨u, hu, hrun⟩ | ⟨_, -, hrun⟩
    · cases hrun.symm.trans h
      exact ⟨s, hu⟩
    · cases hrun.symm.trans h
  | cons stage rest ih =>
    rcases runFrom_cons stage (rest ++ [last]) s n with ⟨u, -, hrun⟩ | ⟨_, -, hrun⟩
    · exact ih (hrun.symm.trans h)
    · cases hrun.symm.trans h

/-- RUN ends without error only with a grid that MASK_AUTO has masked. -/
theorem masked_of_runFrom_none {s t : State} {n : Nat} (h : runFrom runStages s 0 = (t, n, none)) :
    t.status.masked = true ∧ t.status.gv = true := by
  obtain ⟨u, hu⟩ : ∃ u, effMaskAuto u = .ok t := exists_last_of_runFrom_none (stages := runStages.dropLast) h
  obtain ⟨hgv, -, rfl⟩ := effMaskAuto_ok hu
  exact ⟨rfl, hgv⟩

end Sys2Proof.Machine

namespace Sys2Proof.Proofs

open Sys2Proof.Machine

/-- Settles O14: NOP has no effect to apply. -/
theorem nopOnlyCompletes : Obligations.NopOnlyCompletes := fun _ => rfl

/-- Settles O44: each command concludes its stage's effect, and the stages are blind to the reports in between. -/
theorem runIsItsStagesInOrder : Obligations.RunIsItsStagesInOrder := by
  intro s
  rw [exec_run rfl, runCommands_stageCommands rfl]
  rfl

/-- Settles O45: the stages after PLACE raise no error, and the last of them masks the grid. -/
theorem runOutcomes : Obligations.RunOutcomes := by
  intro s
  obtain ⟨u, h | h | h | h⟩ := runFrom_runStages_cases s
  · obtain ⟨hmasked, hgv⟩ := masked_of_runFrom_none h
    exact ⟨_, exec_run h, .inl ⟨rfl, rfl, hmasked, hgv⟩⟩
  · exact ⟨_, exec_run h, .inr (.inl ⟨rfl, rfl, .inl rfl⟩)⟩
  · exact ⟨_, exec_run h, .inr (.inl ⟨rfl, rfl, .inr rfl⟩)⟩
  · exact ⟨_, exec_run h, .inr (.inr ⟨rfl, rfl, rfl⟩)⟩

end Sys2Proof.Proofs
end

section
/-! PROOF. The completion of commands: what every command reports, what one that raises an error leaves, and the interrupt
(60_exceptions.md R700, R701, R711, R720). -/

namespace Sys2Proof.Machine

/-! ### What every completion reports (R700, R711) -/

theorem exists_exec (i : Instr) (s : State) : ∃ t, exec i s = .next t := by
  by_cases hi : i = .run
  · subst hi
    exact ⟨_, rfl⟩
  · rw [exec_eq_conclude hi]
    cases effectOf i s with
    | ok t => exact ⟨_, rfl⟩
    | error e => exact ⟨_, rfl⟩

/-- `t` has the WERR flag and the `CMD` read-back of `s`. -/
def SameWerrAndCmd (s t : State) : Prop := t.status.werr = s.status.werr ∧ t.cmd = s.cmd

theorem sameWerrAndCmd_trans {s t u : State} (h : SameWerrAndCmd s t) (h' : SameWerrAndCmd t u) : SameWerrAndCmd s u := by
  obtain ⟨hwerr, hcmd⟩ := h
  obtain ⟨hwerr', hcmd'⟩ := h'
  exact ⟨hwerr'.trans hwerr, hcmd'.trans hcmd⟩

/-- Only the host writes WERR and `CMD` (10_state.md R54, R55). -/
theorem sameWerrAndCmd_effectOf {i : Instr} {s t : State} (ht : effectOf i s = .ok t) : SameWerrAndCmd s t := by
  cases i with
  | nop | gfMul | gfExp | run => cases ht; exact ⟨rfl, rfl⟩
  | gfDiv a b => obtain ⟨-, rfl⟩ := effGfDiv_ok ht; exact ⟨rfl, rfl⟩
  | gfLog a => obtain ⟨-, rfl⟩ := effGfLog_ok ht; exact ⟨rfl, rfl⟩
  | rsGen n => obtain ⟨-, -, rfl⟩ := effRsGen_ok ht; exact ⟨rfl, rfl⟩
  | rsEnc k => obtain ⟨-, -, -, rfl⟩ := effRsEnc_ok ht; exact ⟨rfl, rfl⟩
  | rsAll => obtain ⟨-, rfl⟩ := effRsAll_ok ht; exact ⟨rfl, rfl⟩
  | ilv => obtain ⟨-, rfl⟩ := effIlv_ok ht; exact ⟨rfl, rfl⟩
  | gridInit => obtain ⟨-, -, -, rfl⟩ := effGridInit_ok ht; exact ⟨rfl, rfl⟩
  | gridWr x y d f => obtain ⟨-, -, -, rfl⟩ := effGridWr_ok ht; exact ⟨rfl, rfl⟩
  | gridRd x y => obtain ⟨-, -, -, rfl⟩ := effGridRd_ok ht; exact ⟨rfl, rfl⟩
  | gridRsv x y => obtain ⟨-, -, -, rfl⟩ := effGridRsv_ok ht; exact ⟨rfl, rfl⟩
  | place => obtain ⟨-, -, -, -, rfl⟩ := effPlace_ok ht; exact ⟨rfl, rfl⟩
  | maskScore m => obtain ⟨-, -, -, rfl⟩ := effMaskScore_ok ht; exact ⟨rfl, rfl⟩
  | maskApply m => obtain ⟨-, -, -, rfl⟩ := effMaskApply_ok ht; exact ⟨rfl, rfl⟩
  | maskAuto => obtain ⟨-, -, rfl⟩ := effMaskAuto_ok ht; exact ⟨rfl, rfl⟩
  | fmtEnc m => obtain ⟨-, rfl⟩ := effFmtEnc_ok ht; exact ⟨rfl, rfl⟩
  | fmtWr => obtain ⟨-, rfl⟩ := effFmtWr_ok ht; exact ⟨rfl, rfl⟩
  | vinfoWr => obtain ⟨-, -, rfl⟩ := effVinfoWr_ok ht; exact ⟨rfl, rfl⟩

/-- A command ends by completing a state that still has WERR and `CMD`. -/
theorem exists_complete_of_exec {i : Instr} {s u : State} (hu : exec i s = .next u) :
    ∃ t e, SameWerrAndCmd s t ∧ u = complete e t :=
  exec_keeps (P := SameWerrAndCmd s) (fun _ _ _ h he => sameWerrAndCmd_trans h (sameWerrAndCmd_effectOf he))
    (fun _ _ h => h) ⟨rfl, rfl⟩ hu

/-- ERR comes exactly with a code of the table (R700). -/
theorem completed_report (st : Status) (e : Option ErrorCode) :
    ((st.completed e).err = false ∧ (st.completed e).errcode = 0) ∨
      ((st.completed e).err = true ∧ 1 ≤ (st.completed e).errcode.toNat ∧ (st.completed e).errcode.toNat ≤ 10) := by
  cases e with
  | none => exact .inl ⟨rfl, rfl⟩
  | some e =>
    refine .inr ⟨rfl, Nat.one_le_iff_ne_zero.2 fun h => ?_, code_le_ten e⟩
    exact code_ne_zero e (BitVec.eq_of_toNat_eq h)

/-! ### The stage at which RUN fails (47_control.md R651) -/

/-- When the stages end with an error, one of them raised it, and those before it completed. -/
theorem exists_failing_stage {stages : List (State → Except ErrorCode State)} {s u : State} {n m : Nat} {e : ErrorCode}
    (h : runFrom stages s n = (u, m, some e)) :
    ∃ k stage, m = n + k ∧ stages[k]? = some stage ∧ stage u = .error e ∧
      runFrom (stages.take k) s n = (u, m, none) := by
  induction stages generalizing s n with
  | nil => cases h
  | cons stage rest ih =>
    rcases runFrom_cons stage rest s n with ⟨t, ht, hrun⟩ | ⟨e', he, hrun⟩
    · obtain ⟨k, failing, rfl, hk, hfail, htake⟩ := ih (hrun.symm.trans h)
      refine ⟨k + 1, failing, by omega, hk, hfail, ?_⟩
      rw [List.take_succ_cons, runFrom_of_ok ht, htake]
    · cases hrun.symm.trans h
      exact ⟨0, stage, rfl, rfl, he, rfl⟩

theorem isCommandOf_stages : List.Forall₂ IsCommandOf Claims.stageCommands runStages :=
  .cons (isCommandOf_of_exec fun _ => rfl) isCommandOf_stages_tail

/-- Where the first k stages complete, their commands complete and leave the same state but for the report. -/
theorem runCommands_take_stageCommands {s u : State} {k n : Nat}
    (h : runFrom (runStages.take k) s 0 = (u, n, none)) :
    ∃ u', Claims.runCommands (Claims.stageCommands.take k) 0 s = (n, u') ∧ SameButReport u u' := by
  cases k with
  | zero =>
    cases h
    exact ⟨s, rfl, s.engine, s.status.done, s.status.err, s.status.errcode, rfl⟩
  | succ k =>
    rcases runFrom_cons effRsAll (runStages.tail.take k) s 0 with ⟨t, ht, hrun⟩ | ⟨e, -, hrun⟩
    · have hexec : exec .rsAll s = .next (complete none t) := congrArg (conclude s) ht
      refine ⟨complete none u, ?_, complete_sameButReport none u⟩
      exact (runCommands_of_next rfl hexec _ 0).trans
        (runCommands_complete (List.forall₂_take k isCommandOf_stages_tail)
          (fun _ hf => List.mem_of_mem_tail (List.mem_of_mem_take hf)) (hrun.symm.trans h))
    · cases hrun.symm.trans h

/-- The command of the failing stage raises its error, whatever the last report. -/
theorem exists_command_of_failing_stage {k : Nat} {stage : State → Except ErrorCode State} {u u' : State} {e : ErrorCode}
    (hk : runStages[k]? = some stage) (he : stage u = .error e) (h : SameButReport u u') :
    ∃ command i, Claims.stageCommands[k]? = some command ∧ command u' = some i ∧
      exec i u' = .next (complete (some e) u') := by
  obtain ⟨hlt, rfl⟩ := List.getElem?_eq_some_iff.1 hk
  have he' : runStages[k] u' = .error e := by
    rcases stage_sameButReport (List.getElem_mem hlt) h with ⟨t, -, ht, -, -⟩ | ⟨e', ht, ht'⟩
    · cases he.symm.trans ht
    · cases he.symm.trans ht
      exact ht'
  rcases isCommandOf_stages.get hlt hlt u' with ⟨-, hskip⟩ | ⟨i, hi, hexec⟩
  · cases hskip.symm.trans he'
  · exact ⟨_, i, List.getElem?_eq_getElem (l := Claims.stageCommands) hlt, hi, hexec.trans (congrArg (conclude u') he')⟩

end Sys2Proof.Machine

namespace Sys2Proof.Proofs

open Sys2Proof.Machine

/-- Settles O6: every command ends in `complete`, and no effect writes WERR or `CMD`. -/
theorem everyCommandCompletes : Obligations.EveryCommandCompletes := by
  intro i s
  obtain ⟨u, hu⟩ := exists_exec i s
  obtain ⟨t, e, ⟨hwerr, hcmd⟩, rfl⟩ := exists_complete_of_exec hu
  exact ⟨_, hu, rfl, completed_done _ e, completed_report _ e, (completed_werr _ e).trans hwerr, hcmd⟩

/-- Settles O8: a command that raises an error only completes; RUN stops at the stage whose command does so. -/
theorem errorChangesOnlyStatus : Obligations.ErrorChangesOnlyStatus := by
  refine ⟨fun i s t hi ht herr => ?_, fun s t ht herr => ?_⟩
  · rcases exec_cases hi ht with ⟨u, -, rfl⟩ | ⟨e, -, rfl⟩
    · cases herr
    · rfl
  · obtain ⟨u, n, e, hrun⟩ : ∃ u n e, runFrom runStages s 0 = (u, n, e) := ⟨_, _, _, rfl⟩
    cases (exec_run hrun).symm.trans ht
    cases e with
    | none => cases herr
    | some e =>
      obtain ⟨k, stage, hn, hk, he, htake⟩ := exists_failing_stage hrun
      obtain rfl : n = k := hn.trans k.zero_add
      obtain ⟨u', hcommands, hsame⟩ := runCommands_take_stageCommands htake
      obtain ⟨command, i, hcommand, hi, hexec⟩ := exists_command_of_failing_stage hk he hsame
      obtain ⟨hlt, -⟩ := List.getElem?_eq_some_iff.1 hk
      refine ⟨n, u', command, i, hlt, hcommands, hcommand, hi, hexec, ?_⟩
      obtain ⟨_, _, _, _, rfl⟩ := hsame
      rfl

/-- Settles O9: completion sets DONE and no command writes CTRL; acceptance clears DONE. -/
theorem irqIsEnableAndDone : Obligations.IrqIsEnableAndDone := by
  refine ⟨fun s => Bool.and_eq_true_iff, fun i s u hu => ?_, fun c s => Bool.and_false _⟩
  obtain ⟨hcfg, -⟩ := sameHostState_exec hu
  obtain ⟨t, e, -, rfl⟩ := exists_complete_of_exec hu
  rw [irq, hcfg, complete_status, completed_done, Bool.and_true]

end Sys2Proof.Proofs
end

section
/-! PROOF. The busy engine: how a command is accepted, and that it completes (60_exceptions.md R710, R711,
70_reset_and_hazards.md R785). -/

namespace Sys2Proof.Machine

/-! ### The engine's turn and the host's accesses while busy -/

theorem exists_engineTurn_of_busy {s : State} {c : Word} (hr : s.rst = false) (hbusy : s.engine = .busy c) :
    ∃ t, engineTurn s = .next t ∧ t.engine = .idle ∧ t.status.done = true := by
  obtain ⟨hrun, hrefuse⟩ := engineTurn_of_busy hr hbusy
  cases hd : decode c with
  | ok i =>
    obtain ⟨u, hu⟩ := exists_exec i s
    obtain ⟨t, e, -, rfl⟩ := exists_complete_of_exec hu
    exact ⟨_, (hrun i hd).trans hu, rfl, completed_done _ e⟩
  | error r => exact ⟨_, hrefuse r hd, rfl, rfl⟩

/-- `t` has the engine, the reset pin and the schedule of `s`. -/
def SameEngine (s t : State) : Prop := t.engine = s.engine ∧ t.rst = s.rst ∧ t.inputs = s.inputs

theorem sameEngine_hostRead (a : HAddr) (s : State) : SameEngine s (hostRead a s) := by
  unfold hostRead
  dsimp only
  split <;> exact ⟨rfl, rfl, rfl⟩

/-- While busy, a write sets a flag, clears flags or does nothing (20_memory.md R171). -/
theorem sameEngine_hostWrite (a : HAddr) (d : Word) {s : State} (hb : s.engine.isBusy = true) :
    SameEngine s (hostWrite a d s) := by
  cases hresp : (regionOf a).resp with
  | err => rw [hostWrite_unmapped d hresp]; exact ⟨rfl, rfl, rfl⟩
  | ok =>
    by_cases hg : regionOf a = .reg .status
    · rw [hostWrite_performed d hresp (.inr hg), hg]; exact ⟨rfl, rfl, rfl⟩
    · rw [hostWrite_dropped d hresp hb hg]; exact ⟨rfl, rfl, rfl⟩

/-! ### The steps of a busy engine (70_reset_and_hazards.md R785) -/

theorem run_succ_of_step {s t : State} (h : step s = .next t) (k : Nat) :
    Sys2Proof.core.run (k + 1) s = Sys2Proof.core.run k t := by
  change Sys2Proof.core.step s = .next t at h
  simp only [Host.Core.run, h]

/-- Each step of a busy engine, but for a reset event, completes the command or takes one event and stays busy. -/
theorem step_of_busy {s : State} {c : Word} (hr : s.rst = false) (hbusy : s.engine = .busy c)
    (hno : ∀ b, Input.rst b ∉ s.inputs) :
    (∃ t, step s = .next t ∧ t.engine = .idle ∧ t.status.done = true) ∨
      ∃ t, step s = .next t ∧ t.rst = false ∧ t.engine = .busy c ∧ ∃ e, s.inputs = e :: t.inputs := by
  cases hin : s.inputs with
  | nil => exact .inl (step_of_nil hin ▸ exists_engineTurn_of_busy (s := takeInput s) hr hbusy)
  | cons e rest =>
    cases e with
    | engine => exact .inl (step_of_engine hin ▸ exists_engineTurn_of_busy (s := takeInput s) hr hbusy)
    | read a =>
      obtain ⟨hengine, hrst, hinputs⟩ := sameEngine_hostRead a (takeInput s)
      refine .inr ⟨_, step_hostRead ⟨hr, rest, hin⟩, hrst.trans hr, hengine.trans hbusy, .read a, ?_⟩
      rw [hinputs, takeInput_inputs, hin, List.tail_cons]
    | write a d =>
      have hb : (takeInput s).engine.isBusy = true := by rw [takeInput_engine, hbusy]; rfl
      obtain ⟨hengine, hrst, hinputs⟩ := sameEngine_hostWrite a d hb
      refine .inr ⟨_, step_hostWrite ⟨hr, rest, hin⟩, hrst.trans hr, hengine.trans hbusy, .write a d, ?_⟩
      rw [hinputs, takeInput_inputs, hin, List.tail_cons]
    | rst b => exact absurd (hin ▸ List.mem_cons_self) (hno b)

end Sys2Proof.Machine

namespace Sys2Proof.Proofs

open Sys2Proof.Machine

/-- Settles O52: CMD is a register; an idle engine performs the write, a busy one drops it (O48). -/
theorem commandAcceptance : Obligations.CommandAcceptance := by
  intro s c h
  have hg : regionOf 0x00C = .reg .cmd := regionOf_reg rfl
  refine ⟨fun hi => ?_, fun c' hbusy => ?_⟩
  · rw [step_write_idle hi h (by rw [hg]; rfl), hg]
    rfl
  · obtain ⟨hdropped, -, -⟩ := busyWritesAreDropped s c' 0x00C c hbusy h
    exact hdropped (by unfold Claims.mapped Claims.misaligned Claims.unassigned; decide) (by decide)

/-- Settles O7, by induction on the pending events: each step completes the command or takes one of them. -/
theorem busyEngineCompletes : Obligations.BusyEngineCompletes := by
  intro s c hr hbusy hno
  induction hl : s.inputs generalizing s with
  | nil =>
    rcases step_of_busy hr hbusy hno with ⟨t, ht, hdone⟩ | ⟨t, -, -, -, e, hin⟩
    · exact ⟨1, t, by simp, run_succ_of_step ht 0, hdone⟩
    · cases hl.symm.trans hin
  | cons e rest ih =>
    rcases step_of_busy hr hbusy hno with ⟨t, ht, hdone⟩ | ⟨t, ht, hr', hbusy', e', hin⟩
    · exact ⟨1, t, by simp, run_succ_of_step ht 0, hdone⟩
    · cases hl.symm.trans hin
      obtain ⟨k, u, hk, hu, hdone⟩ := ih t hr' hbusy' (fun b hb => hno b (hin ▸ List.mem_cons_of_mem _ hb)) rfl
      exact ⟨k + 1, u, Nat.succ_le_succ hk, (run_succ_of_step ht k).trans hu, hdone⟩

end Sys2Proof.Proofs
end

section
/-! PROOF. The reset pin, and the commands that fail straight after reset (70_reset_and_hazards.md R760, R762). -/

namespace Sys2Proof.Machine

/-! ### The reset state (R760) -/

/-- After reset every register reads 0 but `ID`. -/
theorem readReg_reset (r : Reg) : readReg State.reset r = if r = .id then 0x51524301 else 0 := by
  cases r with
  | ctrl | status | prof0 | prof1 | alnPos0 | alnPos1 | gridInfo => decide
  | score m => exact Vector.getElem_replicate m.isLt
  | _ => rfl

/-- An access while the pin is asserted is only answered, with a free value (R760). -/
theorem exists_step_of_rst {s : State} {rest : List Input} {a : HAddr} {d : Word} (hr : s.rst = true)
    (hin : s.inputs = .read a :: rest ∨ s.inputs = .write a d :: rest) :
    ∃ r, step s = .next { Claims.answered s r with draws := s.draws + 1 } := by
  rcases hin with hin | hin
  · exact ⟨_, by rw [step_of_read hin, portRead, takeInput_rst, if_pos hr]; rfl⟩
  · exact ⟨_, by rw [step_of_write hin, portWrite, takeInput_rst, if_pos hr]; rfl⟩

/-! ### The checks of the commands after reset (R762) -/

theorem not_profileOk_reset : ¬ profileOk State.reset.cfg := by decide

theorem not_initAccepts_reset : ¬ Claims.initAccepts State.reset := fun ⟨h1, _, _⟩ => absurd h1 (by decide)

/-- A command whose effect is an error only reports it. -/
theorem exec_of_error {i : Instr} {s : State} {e : ErrorCode} {code : BitVec 4} (hi : i ≠ .run)
    (h : effectOf i s = .error e) (hcode : e.code = code) : exec i s = .next (Claims.failed code s) := by
  subst hcode
  rw [exec_eq_conclude hi, h]
  rfl

/-- The grid commands but GRID_INIT, with a legal mask id: they need a grid (10_state.md R88). -/
def NeedsGrid : Instr → Prop
  | .gridWr _ _ _ _ | .gridRd _ _ | .gridRsv _ _ | .place | .maskAuto | .fmtWr | .vinfoWr => True
  | .maskScore m | .maskApply m => m < 8
  | _ => False

theorem effectOf_of_needsGrid {i : Instr} {s : State} (hg : s.status.gv = false) (h : NeedsGrid i) :
    effectOf i s = .error .noGrid := by
  cases i with
  | gridWr | gridRd | gridRsv => exact withCell_of_not_gv _ hg
  | place | maskAuto | fmtWr | vinfoWr => exact withGrid_of_not_gv hg _
  | maskScore m | maskApply m => exact (withMaskId_of_lt h _).trans (withGrid_of_not_gv hg _)
  | _ => exact h.elim

theorem exec_of_needsGrid {i : Instr} {s : State} (hg : s.status.gv = false) (h : NeedsGrid i) :
    exec i s = .next (Claims.failed 7 s) :=
  exec_of_error (by rintro rfl; exact h) (effectOf_of_needsGrid hg h) rfl

end Sys2Proof.Machine

namespace Sys2Proof.Proofs

open Sys2Proof.Machine

/-- Settles O10: it is the reset numbered 0. -/
theorem resetMeetsInvariant : Obligations.ResetMeetsInvariant := inv_afterReset 0

/-- Settles O57: asserting the pin brings the reset state, whatever the engine was doing; releasing it changes only the
pin. -/
theorem resetPinResets : Obligations.ResetPinResets := by
  refine ⟨fun s rest hin => ?_, fun s rest a d hr hin => ?_⟩
  · have hin' : (driveRst true (takeInput s)).inputs = .rst false :: rest := congrArg List.tail hin
    refine ⟨_, _, step_of_rst hin, step_of_rst hin', rfl, rfl, rfl, fun r => ?_, rfl, fun i => ?_, rfl, rfl,
      congrArg List.tail hin', rfl⟩
    · rw [← readReg_reset]
      cases r <;> rfl
    · exact Vector.getElem_replicate i.isLt
  · obtain ⟨r, hstep⟩ := exists_step_of_rst hr hin
    exact ⟨_, r, hstep, rfl⟩

/-- Settles O58: the profile and the version are 0, and there is neither a generator nor a grid. -/
theorem commandsAfterResetFail : Obligations.CommandsAfterResetFail := by
  have hgv : State.reset.status.gv = false := rfl
  have hrsAll : effRsAll State.reset = .error .invalidConfig := effRsAll_of_not_profileOk not_profileOk_reset
  refine ⟨rfl, rfl, hgv, readReg_reset .prof0, exec_gridInit_of_not_initAccepts not_initAccepts_reset,
    exec_of_error nofun hrsAll rfl, exec_of_error nofun (effIlv_of_not_profileOk not_profileOk_reset) rfl,
    exec_run (runFrom_of_error hrsAll _ 0),
    fun k => exec_of_error nofun (effRsEnc_of_noGen (s := State.reset) rfl k) rfl, ?_⟩
  exact ⟨fun _ _ _ _ => exec_of_needsGrid hgv trivial,
    fun _ _ => ⟨exec_of_needsGrid hgv trivial, exec_of_needsGrid hgv trivial⟩, exec_of_needsGrid hgv trivial,
    fun _ hm => ⟨exec_of_needsGrid hgv hm, exec_of_needsGrid hgv hm⟩, exec_of_needsGrid hgv trivial,
    exec_of_needsGrid hgv trivial, exec_of_needsGrid hgv trivial⟩

end Sys2Proof.Proofs
end
